-- ==== Sys2Proof/Word.lean ====
section
/-! DEFINITION. The words of the machine: bytes, bus addresses, and the two packed words of a bus cycle. -/

namespace Sys2Proof

/-- A register byte or a byte of external memory (spec 00_scope.md R10). -/
abbrev Byte := BitVec 8

/-- A host bus address (spec 20_memory.md R61). -/
abbrev BusAddr := BitVec 16

/-- An offset inside the decode window (spec 20_memory.md R62). -/
abbrev Offset := BitVec 4

/-- The lines sampled at a strobe's falling edge: AEN, KIND, A, D (spec 30_encoding.md R91). -/
abbrev RawWord := BitVec 26

/-- What the window decode leaves of a bus cycle: KIND, OFF, DATA (spec 30_encoding.md R93). -/
abbrev RegWord := BitVec 13

end Sys2Proof
end

