-- ==== Sys2Proof/Syntax.lean ====
section
/-! DEFINITION. The bus operations: one constructor of `Instr` per row of spec/opcode_table.json. -/

namespace Sys2Proof

/-- Which of the two strobes fell (spec 30_encoding.md R91). -/
inductive Kind where
  | rd
  | wr
deriving DecidableEq, Repr, Inhabited

/-- The sixteen registers, in offset order (spec 30_encoding.md R96). -/
inductive Reg where
  | ctrl | stat | pala | pald | fblo | fbhi | fbext | hrlo
  | hrhi | vrlo | vrhi | pfmt | dmac | loff | sadr | curs
deriving DecidableEq, Repr, Inhabited

/-- The 32 register operations and the two ignore classes (spec 30_encoding.md R93, R110, R112).
A read has no operand, since the block ignores the data lines on a read; a write has the data byte; an
ignored cycle keeps the lines it was sampled with (notes/assumptions/24). -/
inductive Instr where
  | rdCtrl
  | wrCtrl (data : Byte)
  | rdStat
  | wrStat (data : Byte)
  | rdPala
  | wrPala (data : Byte)
  | rdPald
  | wrPald (data : Byte)
  | rdFblo
  | wrFblo (data : Byte)
  | rdFbhi
  | wrFbhi (data : Byte)
  | rdFbext
  | wrFbext (data : Byte)
  | rdHrlo
  | wrHrlo (data : Byte)
  | rdHrhi
  | wrHrhi (data : Byte)
  | rdVrlo
  | wrVrlo (data : Byte)
  | rdVrhi
  | wrVrhi (data : Byte)
  | rdPfmt
  | wrPfmt (data : Byte)
  | rdDmac
  | wrDmac (data : Byte)
  | rdLoff
  | wrLoff (data : Byte)
  | rdSadr
  | wrSadr (data : Byte)
  | rdCurs
  | wrCurs (data : Byte)
  | ignoreAen (kind : Kind) (addr : BusAddr) (data : Byte)
  | ignoreMiss (kind : Kind) (addr : BusAddr) (data : Byte)
deriving DecidableEq, Repr

end Sys2Proof
end

