-- ==== Sys2Proof/Machine/Types.lean ====
section
/-! DEFINITION. The data types of the block: bus transactions, palette, pixels, descriptors, blits, events. -/

namespace Sys2Proof.Machine

/-- The palette cursor's channel, "R→G→B" (spec 10_state.md R28; notes/assumptions/25). -/
inductive Channel where
  | red | green | blue
deriving DecidableEq, Repr, Inhabited

/-- One palette entry, "a 3-byte RGB triplet" (spec 10_state.md R27). -/
structure Rgb where
  r : Byte
  g : Byte
  b : Byte
deriving DecidableEq, Repr, Inhabited

/-- The 256 entries of the palette table (spec 10_state.md R27). -/
abbrev Palette := Vector Rgb 256

/-- The value of an emitted pixel (spec 45_pixel_format.md R230). -/
inductive PixelValue where
  | rgb888 (r g b : Byte)
  | rgb565 (w : BitVec 16)
deriving DecidableEq, Repr, Inhabited

/-- A pixel of a line buffer: an index awaiting lookup, or a colour (spec 45_pixel_format.md R230). -/
inductive StoredPixel where
  | index (i : Byte)
  | direct (v : PixelValue)
deriving DecidableEq, Repr, Inhabited

/-- The five pixel formats (spec 30_encoding.md R104). -/
inductive PixelFormat where
  | bpp1 | bpp4 | bpp8 | bpp16 | bpp24
deriving DecidableEq, Repr, Inhabited

/-- The ShadowRegisters, ten bytes (spec 10_state.md R26). -/
structure Shadow where
  fbLo : Byte
  fbHi : Byte
  fbExt : Byte
  hresLo : Byte
  hresHi : Byte
  vresLo : Byte
  vresHi : Byte
  pfmt : Byte
  loff : Byte
  sadr : Byte
deriving DecidableEq, Repr, Inhabited

/-- The FramebufferDescriptor (spec 10_state.md R34). -/
structure Descriptor where
  base : BitVec 24
  start : Byte
  stride : Nat
  width : BitVec 16
  height : BitVec 16
  fmt : PixelFormat
deriving DecidableEq, Repr, Inhabited

/-- The lines as they stand at a strobe's falling edge (spec 40_bus_engine.md R120). -/
structure Cycle where
  aen : Bool
  kind : Kind
  addr : BusAddr
  data : Byte
deriving DecidableEq, Repr, Inhabited

/-- The transaction record of the bus engine: the sampled lines, and whether the strobe rose before
dispatch (spec 10_state.md R31). -/
structure Transaction where
  kind : Kind
  addr : BusAddr
  aen : Bool
  data : Byte
  deasserted : Bool
deriving DecidableEq, Repr, Inhabited

/-- The five states of the bus engine (spec 10_state.md R31). -/
inductive Bte where
  | idle
  | decode (t : Transaction)
  | dispatchRead (t : Transaction)
  | dispatchWrite (t : Transaction)
  | ignore (t : Transaction)
deriving DecidableEq, Repr, Inhabited

/-- The DMA chain: stopped, the pixel unit streaming, the blanking unit running (spec 10_state.md R36). -/
inductive Chain where
  | stopped | pix | blk
deriving DecidableEq, Repr, Inhabited

/-- The operation of a blit (spec 47_arbiter_blit.md R266). -/
inductive BlitOp where
  | copy | fill | xor
deriving DecidableEq, Repr, Inhabited

/-- A BlitCommand: byte addresses, bytes per row, rows (spec 47_arbiter_blit.md R266). -/
structure BlitCmd where
  src : Nat
  dst : Nat
  width : Nat
  height : Nat
  op : BlitOp
deriving DecidableEq, Repr, Inhabited

/-- An accepted blit: the command, the row pitch captured at submission, and the count of bytes already
processed (spec 10_state.md R39). -/
structure BlitJob where
  cmd : BlitCmd
  pitch : Nat
  next : Nat
deriving DecidableEq, Repr, Inhabited

/-- What `BlitSubmit` returns (spec 47_arbiter_blit.md R267). -/
inductive BlitResult where
  | success | boundsError | busy
deriving DecidableEq, Repr, Inhabited

/-- The two causes of ProtocolTimingFault (spec 60_exceptions.md R288). -/
inductive TimingCause where
  | edgeWhileBusy | missedDeadline
deriving DecidableEq, Repr, Inhabited

/-- The four recorded fault kinds, each with the information its log entry holds (spec 60_exceptions.md
R287). DecodeMiss is not among them: it is never raised (R292). -/
inductive FaultInfo where
  | protocolTiming (cause : TimingCause)
  | outOfRangeConfiguration (sh : Shadow)
  | scanoutUnderrun (line : Nat)
  | blitBounds (cmd : BlitCmd)
deriving DecidableEq, Repr, Inhabited

/-- The output events (spec 10_state.md R41). -/
inductive OutEvent where
  | pixel (v : PixelValue)
  | hsyncEdge (level : Bool)
  | vsyncEdge (level : Bool)
  | vblank
  | irq
  | faultLog (f : FaultInfo)
deriving DecidableEq, Repr, Inhabited

/-- One atomic step of one agent, with the values the environment draws for it (spec 00_scope.md R12). -/
inductive Event where
  /-- HOST: a strobe falls with these lines (spec 40_bus_engine.md R120). -/
  | strobeFall (c : Cycle)
  /-- HOST: the strobe of this kind rises (spec 40_bus_engine.md R120). -/
  | strobeRise (kind : Kind)
  /-- HOST: a command at the blit port (spec 47_arbiter_blit.md R267). -/
  | blitSubmit (cmd : BlitCmd)
  /-- HOST: a write through the memory window (spec 47_arbiter_blit.md R279). -/
  | hostMemWrite (addr : Nat) (v : Byte)
  /-- BTE: the bus engine's enabled internal step, dispatch or retire (spec 40_bus_engine.md R123, R129). -/
  | bte
  /-- SCAN: one pixel-clock tick, with the underrun draw that a fetched line uses (spec 44_timing_sync.md
  R209, 46_dma_chain.md R253). -/
  | tick (underrun : Bool)
  /-- SCAN: byte `k` of the line being shown is read from memory at this instant, later than its arm (spec
  46_dma_chain.md R249). -/
  | lateRead (k : Nat)
  /-- SCAN: one channel of pixel `k` of the line being shown is looked up at this instant, earlier than its emission
  (spec 45_pixel_format.md R239, 42_palette.md R185). -/
  | earlyLookup (k : Nat) (ch : Channel)
  /-- BLIT: one slice of `n` bytes (spec 47_arbiter_blit.md R273). -/
  | blitSlice (n : Nat)
  /-- ENV: reset, with the palette drawn for it (spec 70_reset_and_hazards.md R310). -/
  | reset (pal : Palette)
  /-- ENV: the display link changes `link_active_in` (spec 10_state.md R40). -/
  | linkActive (level : Bool)
deriving DecidableEq, Repr, Inhabited

/-- The register side: what `WO_READ` may depend on (spec 10_state.md R22 to R30, 41_register_ops.md R139).
`ctrl` is `reg[0x0]`, `chainEn` and `blitEn` are the stored bits of `reg[0xC]`, `curs` is `reg[0xF]`. -/
structure RegSide where
  ctrl : Byte
  chainEn : Bool
  blitEn : Bool
  curs : Byte
  sh : Shadow
  pal : Palette
  palIndex : Byte
  palChannel : Channel
  timingResetPending : Bool
deriving DecidableEq, Repr

/-- The bus engine's state and the byte it drives (spec 10_state.md R31, R32). -/
structure Bus where
  bte : Bte
  dataOut : Option Byte
deriving DecidableEq, Repr, Inhabited

/-- Sticky flags and counters (spec 10_state.md R33). -/
structure FaultRecord where
  fBus : Bool
  fCfg : Bool
  fUnderrun : Bool
  fBlit : Bool
  busFaultCount : Nat
  underrunCount : Nat
deriving DecidableEq, Repr, Inhabited

/-- The pixel side (spec 10_state.md R34 to R37). -/
structure PixelSide where
  act : Descriptor
  actMode : BitVec 3
  line : Nat
  col : Nat
  hsyncOut : Bool
  vsyncOut : Bool
  inVblank : Bool
  chain : Chain
  fetchOn : Bool
  curLine : List StoredPixel
  lastLine : List StoredPixel
deriving DecidableEq, Repr, Inhabited

/-- The inputs the environment holds (spec 10_state.md R40; notes/assumptions/26). -/
structure Inputs where
  rdLow : Bool
  wrLow : Bool
  linkActiveIn : Bool
deriving DecidableEq, Repr, Inhabited

/-- The model's own bookkeeping: the moves that come next, the number of free values already drawn, what the host
saw, and, of the line being shown, the bytes it was unpacked from, if it was read from memory, and the palette
channels looked up ahead of their emission (DESIGN CHOICE, notes/assumptions 1, 10, 19, 21). -/
structure Env where
  agenda : List Event
  draws : Nat
  hostRead : Option Byte
  blitResult : Option BlitResult
  lineBytes : Option (List Byte)
  looked : List (Nat × Channel × Byte)
deriving DecidableEq, Repr, Inhabited

/-- The ten shadow bytes after reset (spec 10_state.md R47). -/
def Shadow.zero : Shadow :=
  { fbLo := 0, fbHi := 0, fbExt := 0, hresLo := 0, hresHi := 0, vresLo := 0, vresHi := 0, pfmt := 0,
    loff := 0, sadr := 0 }

/-- No fault seen (spec 10_state.md R47). -/
def FaultRecord.clear : FaultRecord :=
  { fBus := false, fCfg := false, fUnderrun := false, fBlit := false, busFaultCount := 0, underrunCount := 0 }

/-- External memory as the list of the bytes that differ from `Memory.launch` (spec 10_state.md R38). -/
abbrev Memory := List Host.Cell

end Sys2Proof.Machine
end

