-- ==== Sys2Proof/Config.lean ====
section
/-! DEFINITION. The parameters of the block (spec 00_scope.md R8), their defaults, and the free values. -/

namespace Sys2Proof

open Sys2Proof.Machine

/-- One timing record: the blanking widths and the line-repeat factor (spec 44_timing_sync.md R206). -/
structure Timing where
  hFront : Nat
  hSync : Nat
  hBack : Nat
  vFront : Nat
  vSync : Nat
  vBack : Nat
  lineRepeat : Nat
deriving DecidableEq, Repr, Inhabited

/-- Where a timing restart puts the position (spec 44_timing_sync.md R214). -/
inductive RestartPos where
  | frameStart | vblankStart
deriving DecidableEq, Repr, Inhabited

/-- Pixel order inside a byte (spec 45_pixel_format.md R233, R234). -/
inductive BitOrder where
  | msbFirst | lsbFirst
deriving DecidableEq, Repr, Inhabited

/-- The parameter `RESET`: "one field per piece of state" (spec 00_scope.md R8, 92_eei_decisions.md D18). The pieces
without a field are those that 70_reset_and_hazards.md names: `act` is "not a separately chosen value" (R311), the
palette is drawn (R310), memory and the inputs are left alone (R312). -/
structure ResetValues where
  ctrl : Byte
  chainEn : Bool
  blitEn : Bool
  curs : Byte
  sh : Shadow
  palIndex : Byte
  palChannel : Channel
  timingResetPending : Bool
  bte : Bte
  dataOut : Option Byte
  faults : FaultRecord
  actMode : BitVec 3
  line : Nat
  col : Nat
  hsyncOut : Bool
  vsyncOut : Bool
  inVblank : Bool
  chain : Chain
  fetchOn : Bool
  curLine : List StoredPixel
  lastLine : List StoredPixel
  blit : Option BlitJob
deriving DecidableEq, Repr, Inhabited

/-- The configuration record `CFG`, constant for the life of a run (spec 00_scope.md R8). `DECODE_MASK`
and `OFFSET_MASK` are fixed (R9) and stand in Decode.lean; `WO_READ` is `Config.woRead` below; `timing`
has one record for each value of `act_mode`. -/
structure Config where
  base : BusAddr
  memCapacity : Nat
  timing : Vector Timing 8
  restartPos : RestartPos
  lineOffsetUnit : Nat
  startAddressUnit : Nat
  bitOrder : BitOrder
  reset : ResetValues
  blitPresent : Bool
  blitFillValue : Byte
  hostMemWindowPresent : Bool
deriving DecidableEq, Repr

/-- The reset values of the table of spec 10_state.md R47. -/
def ResetValues.default : ResetValues :=
  { ctrl := 0, chainEn := true, blitEn := false, curs := 0, sh := Shadow.zero, palIndex := 0,
    palChannel := .red, timingResetPending := false, bte := .idle, dataOut := none, faults := FaultRecord.clear,
    actMode := 0, line := 0, col := 0, hsyncOut := false, vsyncOut := false, inVblank := false, chain := .stopped,
    fetchOn := false, curLine := [], lastLine := [], blit := none }

/-- The default of `TIMING` (spec 00_scope.md R8; PRESUMED by the spec from general knowledge,
notes/assumptions/5). -/
def Timing.default : Timing :=
  { hFront := 16, hSync := 96, hBack := 48, vFront := 10, vSync := 2, vBack := 33, lineRepeat := 1 }

/-- The configuration of `State.reset`: the defaults of spec 00_scope.md R8. `BASE`, `MEM_CAPACITY` and
`BLIT_FILL_VALUE` have no default there (DESIGN CHOICE, notes/assumptions/4). -/
def Config.default : Config :=
  { base := 0x300, memCapacity := 0x100000, timing := Vector.replicate 8 Timing.default,
    restartPos := .frameStart, lineOffsetUnit := 1, startAddressUnit := 1, bitOrder := .msbFirst,
    reset := ResetValues.default, blitPresent := false, blitFillValue := 0x5A,
    hostMemWindowPresent := false }

/-- `WO_READ`, the "unspecified but stable value" a read of a write-only offset returns: a function of the
offset and the register side, and nothing is known of it (spec 41_register_ops.md R139; free value,
notes/assumptions/8). -/
opaque Config.woRead : Offset → RegSide → Byte

/-- Byte `k` of a scan-out read, where it lies beyond the memory: drawn afresh at each read, `n` numbering
the draws (spec 46_dma_chain.md R250; free value, notes/assumptions/9). -/
opaque Config.strayByte : (n : Nat) → (k : Nat) → Byte

/-- What the host reads when the block drives nothing (spec 40_bus_engine.md R133; free value,
notes/assumptions/10). -/
opaque Config.undrivenByte : (n : Nat) → Byte

/-- The move the agents make when the agenda is empty (spec 20_memory.md R71, 00_scope.md R12; free value,
notes/assumptions/1). -/
opaque Config.nextEvent : (n : Nat) → Event

end Sys2Proof
end

