-- ==== Sys2Proof/Machine/Resolve.lean ====
section
/-! DEFINITION. `resolve`: the ten shadow bytes to a FramebufferDescriptor, and the sizes derived from one. -/

namespace Sys2Proof.Machine

/-- `a` divided by `b`, rounded up (spec 00_scope.md R10). -/
def ceilDiv (a b : Nat) : Nat := (a + b - 1) / b

/-- Bits per pixel (spec 30_encoding.md R104). -/
def PixelFormat.bits : PixelFormat → Nat
  | .bpp1 => 1
  | .bpp4 => 4
  | .bpp8 => 8
  | .bpp16 => 16
  | .bpp24 => 24

/-- The format of a Pixel Format byte; none for 5 to 255 (spec 30_encoding.md R104, 43_fb_resolve.md R195). -/
def formatOf (b : Byte) : Option PixelFormat :=
  match b.toNat with
  | 0 => some .bpp1
  | 1 => some .bpp4
  | 2 => some .bpp8
  | 3 => some .bpp16
  | 4 => some .bpp24
  | _ => none

/-- The base address, low byte at the lower offset (spec 20_memory.md R65, 43_fb_resolve.md R191). -/
def Shadow.base (sh : Shadow) : BitVec 24 := sh.fbExt ++ sh.fbHi ++ sh.fbLo

/-- The active width (spec 43_fb_resolve.md R191). -/
def Shadow.width (sh : Shadow) : BitVec 16 := sh.hresHi ++ sh.hresLo

/-- The active height (spec 43_fb_resolve.md R191). -/
def Shadow.height (sh : Shadow) : BitVec 16 := sh.vresHi ++ sh.vresLo

/-- The stride in bytes: the override, or the bytes a line occupies when the override is 0 (spec
43_fb_resolve.md R192). -/
def strideOf (cfg : Config) (sh : Shadow) (fmt : PixelFormat) : Nat :=
  if sh.loff = 0 then ceilDiv (sh.width.toNat * fmt.bits) 8 else sh.loff.toNat * cfg.lineOffsetUnit

/-- `resolve`: a pure function of the shadow bytes and `CFG`; none is the source's "resolution fails" (spec
43_fb_resolve.md R190, R194, R199). The bound is over the naturals and equality passes. -/
def resolve (cfg : Config) (sh : Shadow) : Option Descriptor :=
  match formatOf sh.pfmt with
  | none => none
  | some fmt =>
    if sh.base.toNat + sh.height.toNat * strideOf cfg sh fmt ≤ cfg.memCapacity then
      some { base := sh.base, start := sh.sadr, stride := strideOf cfg sh fmt, width := sh.width,
             height := sh.height, fmt := fmt }
    else none

/-- The count of bytes one source line occupies (spec 43_fb_resolve.md R201). -/
def Descriptor.lineBytes (d : Descriptor) : Nat := ceilDiv (d.width.toNat * d.fmt.bits) 8

/-- The address of the first byte of source line 0 (spec 43_fb_resolve.md R201). -/
def scanBase (cfg : Config) (d : Descriptor) : Nat := d.base.toNat + d.start.toNat * cfg.startAddressUnit

/-- The bound that the active descriptor satisfies (spec 10_state.md R45(c), 43_fb_resolve.md R194). -/
def Descriptor.fits (cfg : Config) (d : Descriptor) : Prop :=
  d.base.toNat + d.height.toNat * d.stride ≤ cfg.memCapacity

end Sys2Proof.Machine
end

