-- ==== Sys2Proof/Machine/Timing.lean ====
section
/-! DEFINITION. Frame geometry of the video timing generator, and the sync windows of the display sync generator. -/

namespace Sys2Proof.Machine

/-- `TIMING(act_mode)` (spec 44_timing_sync.md R206). -/
def timingOf (cfg : Config) (mode : BitVec 3) : Timing := cfg.timing.get mode.toFin

/-- `HB`, the horizontal blanking columns (spec 44_timing_sync.md R206). -/
def hBlank (t : Timing) : Nat := t.hFront + t.hSync + t.hBack

/-- `VB`, the vertical-blank lines (spec 44_timing_sync.md R206). -/
def vBlank (t : Timing) : Nat := t.vFront + t.vSync + t.vBack

/-- `W`, the active columns (spec 44_timing_sync.md R206). -/
def activeWidth (p : PixelSide) : Nat := p.act.width.toNat

/-- `AL`, the active output lines (spec 44_timing_sync.md R206, R208). -/
def activeLines (cfg : Config) (p : PixelSide) : Nat :=
  p.act.height.toNat * (timingOf cfg p.actMode).lineRepeat

/-- `HT`, the columns of a line (spec 44_timing_sync.md R206). -/
def totalCols (cfg : Config) (p : PixelSide) : Nat := activeWidth p + hBlank (timingOf cfg p.actMode)

/-- `VT`, the lines of a frame (spec 44_timing_sync.md R206). -/
def totalLines (cfg : Config) (p : PixelSide) : Nat := activeLines cfg p + vBlank (timingOf cfg p.actMode)

/-- The position lies in the horizontal sync window (spec 44_timing_sync.md R217). -/
def inHsync (cfg : Config) (p : PixelSide) : Bool :=
  let t := timingOf cfg p.actMode
  decide (activeWidth p + t.hFront ≤ p.col) && decide (p.col < activeWidth p + t.hFront + t.hSync)

/-- The position lies in the vertical sync window (spec 44_timing_sync.md R216). -/
def inVsync (cfg : Config) (p : PixelSide) : Bool :=
  let t := timingOf cfg p.actMode
  decide (activeLines cfg p + t.vFront ≤ p.line) && decide (p.line < activeLines cfg p + t.vFront + t.vSync)

/-- The position after the one just processed: the column wraps at `HT`, the line at `VT` (spec
44_timing_sync.md R209, R215). -/
def advancePos (cfg : Config) (p : PixelSide) : PixelSide :=
  let col' := p.col + 1
  let line' := if col' = totalCols cfg p then p.line + 1 else p.line
  { p with
    col := if col' = totalCols cfg p then 0 else col'
    line := if line' = totalLines cfg p then 0 else line' }

end Sys2Proof.Machine
end

