-- ==== Sys2Proof/WellFormed.lean ====
section
/-! DEFINITION. Well-formed instructions, and the legal parameters. -/

namespace Sys2Proof

open Sys2Proof.Machine

/-- The mask of the window decode (spec 00_scope.md R9). -/
def decodeMask : BusAddr := 0xFFF0#16

/-- The mask of the register offset (spec 00_scope.md R9). -/
def offsetMask : BusAddr := 0x000F#16

/-- The block claims the address (spec 20_memory.md R61). -/
def inWindow (base a : BusAddr) : Bool := a &&& decodeMask == base

/-- An instruction is well formed for a base address when some bus cycle decodes to it: only a missed cycle
carries a condition, that its address misses the window (spec 30_encoding.md R92, R112). -/
def Instr.wf (base : BusAddr) : Instr → Bool
  | .ignoreMiss _ a _ => !inWindow base a
  | _ => true

/-- The base address has its low four bits zero (spec 00_scope.md R8). -/
def Config.baseAligned (cfg : Config) : Bool := cfg.base &&& offsetMask == 0#16

/-- A timing record has at least one blanking column, one blanking line and one repeat (spec 00_scope.md R8). -/
def Timing.wf (t : Timing) : Bool :=
  decide (1 ≤ hBlank t) && decide (1 ≤ vBlank t) && decide (1 ≤ t.lineRepeat)

/-- Every mode's timing record is legal (spec 00_scope.md R8). -/
def Config.timingWf (cfg : Config) : Bool := cfg.timing.all Timing.wf

/-- A non-zero Line Offset counts at least one byte (spec 00_scope.md R8). -/
def Config.unitWf (cfg : Config) : Bool := decide (1 ≤ cfg.lineOffsetUnit)

/-- The reset shadow bytes resolve: "a RESET whose shadow values do not resolve is not a legal parameter" (spec
10_state.md R34). -/
def Config.resetResolves (cfg : Config) : Bool := (resolve cfg cfg.reset.sh).isSome

/-- Without the blit engine there is no blit and no blit error to start from: "Exists only if BLIT_PRESENT" (spec
60_exceptions.md R291, 10_state.md R39, 47_arbiter_blit.md R278). -/
def Config.resetBlitWf (cfg : Config) : Bool :=
  cfg.blitPresent || (cfg.reset.blit.isNone && !cfg.reset.faults.fBlit)

/-- The parameters satisfy the constraints of the table of spec 00_scope.md R8, and `RESET` those of the rules it
must agree with. -/
def Config.wf (cfg : Config) : Bool :=
  cfg.baseAligned && cfg.timingWf && cfg.unitWf && cfg.resetResolves && cfg.resetBlitWf

end Sys2Proof
end

