-- ==== Sys2Proof/Decode.lean ====
section
/-! DEFINITION. The packed words of a bus cycle, the window decode, and the encoder. -/

namespace Sys2Proof

open Sys2Proof.Machine

/-- `KIND` as a bit: 0 read, 1 write (spec 30_encoding.md R91). -/
def Kind.bit : Kind → BitVec 1
  | .rd => 0
  | .wr => 1

/-- `KIND` from its bit (spec 30_encoding.md R91). -/
def kindOf (b : Bool) : Kind := if b then .wr else .rd

/-- The RAW word: AEN(25) KIND(24) A(23:8) D(7:0) (spec 30_encoding.md R91). -/
def rawBits (aen : Bool) (kind : Kind) (addr : BusAddr) (data : Byte) : RawWord :=
  BitVec.ofBool aen ++ kind.bit ++ addr ++ data

/-- The four fields of a RAW word (spec 30_encoding.md R91). -/
def cycleOf (w : RawWord) : Cycle :=
  { aen := w.getLsbD 25, kind := kindOf (w.getLsbD 24), addr := w.extractLsb' 8 16,
    data := w.extractLsb' 0 8 }

/-- The RAW word of sampled lines (spec 30_encoding.md R91). -/
def rawOf (c : Cycle) : RawWord := rawBits c.aen c.kind c.addr c.data

/-- The REG word: KIND(12) OFF(11:8) DATA(7:0) (spec 30_encoding.md R93). -/
def regBits (kind : Kind) (off : Offset) (data : Byte) : RegWord :=
  kind.bit ++ off ++ data

/-- The offset of each register (spec 30_encoding.md R96). -/
def Reg.offset : Reg → Offset
  | .ctrl => 0x0 | .stat => 0x1 | .pala => 0x2 | .pald => 0x3
  | .fblo => 0x4 | .fbhi => 0x5 | .fbext => 0x6 | .hrlo => 0x7
  | .hrhi => 0x8 | .vrlo => 0x9 | .vrhi => 0xA | .pfmt => 0xB
  | .dmac => 0xC | .loff => 0xD | .sadr => 0xE | .curs => 0xF

/-- The register at each offset: all sixteen have a role (spec 20_memory.md R62, 30_encoding.md R96). -/
def regAt (off : Offset) : Reg :=
  match off.toNat with
  | 0x0 => .ctrl | 0x1 => .stat | 0x2 => .pala | 0x3 => .pald
  | 0x4 => .fblo | 0x5 => .fbhi | 0x6 => .fbext | 0x7 => .hrlo
  | 0x8 => .hrhi | 0x9 => .vrlo | 0xA => .vrhi | 0xB => .pfmt
  | 0xC => .dmac | 0xD => .loff | 0xE => .sadr | _ => .curs

/-- The read operation of a register (spec 41_register_ops.md, R(140 + 2o)). -/
def readInstr : Reg → Instr
  | .ctrl => .rdCtrl | .stat => .rdStat | .pala => .rdPala | .pald => .rdPald
  | .fblo => .rdFblo | .fbhi => .rdFbhi | .fbext => .rdFbext | .hrlo => .rdHrlo
  | .hrhi => .rdHrhi | .vrlo => .rdVrlo | .vrhi => .rdVrhi | .pfmt => .rdPfmt
  | .dmac => .rdDmac | .loff => .rdLoff | .sadr => .rdSadr | .curs => .rdCurs

/-- The write operation of a register (spec 41_register_ops.md, R(141 + 2o)). -/
def writeInstr (d : Byte) : Reg → Instr
  | .ctrl => .wrCtrl d | .stat => .wrStat d | .pala => .wrPala d | .pald => .wrPald d
  | .fblo => .wrFblo d | .fbhi => .wrFbhi d | .fbext => .wrFbext d | .hrlo => .wrHrlo d
  | .hrhi => .wrHrhi d | .vrlo => .wrVrlo d | .vrhi => .wrVrhi d | .pfmt => .wrPfmt d
  | .dmac => .wrDmac d | .loff => .wrLoff d | .sadr => .wrSadr d | .curs => .wrCurs d

/-- A REG word selects one of the 32 operations by KIND and OFF; DATA is ignored on a read (spec
30_encoding.md R93). -/
def decodeReg (w : RegWord) : Instr :=
  let reg := regAt (w.extractLsb' 8 4)
  match kindOf (w.getLsbD 12) with
  | .rd => readInstr reg
  | .wr => writeInstr (w.extractLsb' 0 8) reg

/-- The REG word of a claimed cycle, `KIND ++ (A & OFFSET_MASK)[3:0] ++ D` (spec 30_encoding.md R92). -/
def regWordOf (c : Cycle) : RegWord := regBits c.kind ((c.addr &&& offsetMask).setWidth 4) c.data

/-- The window decode of sampled lines: AEN first, then the window, else a register operation (spec
30_encoding.md R92). -/
def decodeCycle (base : BusAddr) (c : Cycle) : Instr :=
  if c.aen then .ignoreAen c.kind c.addr c.data
  else if inWindow base c.addr then decodeReg (regWordOf c)
  else .ignoreMiss c.kind c.addr c.data

/-- The decoder: total, since "every one of the 2^26 RAW words is legal" (spec 30_encoding.md R91, R92). -/
def decode (base : BusAddr) (w : RawWord) : Instr := decodeCycle base (cycleOf w)

/-- Why a table word is no word of the format it is offered in (spec 30_encoding.md R91, R93). -/
inductive DecodeReject where
  | notARegWord
  | notARawWord
deriving DecidableEq, Repr

/-- The RAW word on the bus for a word numbered as spec/opcode_table.json numbers it: a REG word (13 bits, in
16) is a cycle at its register's address in the window, a RAW word (26 bits, in 32) is itself (spec
30_encoding.md R111, R112). -/
def tableRaw (base : BusAddr) (nbits w : Nat) : RawWord :=
  if nbits ≤ 16 then
    let r : RegWord := BitVec.ofNat 13 w
    rawBits false (kindOf (r.getLsbD 12)) (base + (r.extractLsb' 8 4).setWidth 16) (r.extractLsb' 0 8)
  else BitVec.ofNat 26 w

/-- Decode a table word, rejecting by name a number with bits above its format (spec 30_encoding.md R112). -/
def decodeTable (base : BusAddr) (nbits w : Nat) : Except DecodeReject Instr :=
  if nbits ≤ 16 then
    if w < 2 ^ 13 then .ok (decode base (tableRaw base nbits w)) else .error .notARegWord
  else if w < 2 ^ 26 then .ok (decode base (tableRaw base nbits w)) else .error .notARawWord

/-- The instruction the decoder reads from a word numbered as spec/opcode_table.json numbers it, with the base
address of the reset configuration (notes/assumptions/2). -/
def decodeTableWord (nbits w : Nat) : Option Instr :=
  match decodeTable Config.default.base nbits w with
  | .ok i => some i
  | .error _ => none

/-- The operation part of a register instruction: strobe, register and data, a read's data shown as 0; none for
an ignored cycle (spec 30_encoding.md R93, 41_register_ops.md). -/
def Instr.operation : Instr → Option (Kind × Reg × Byte)
  | .rdCtrl => some (.rd, .ctrl, 0) | .wrCtrl d => some (.wr, .ctrl, d)
  | .rdStat => some (.rd, .stat, 0) | .wrStat d => some (.wr, .stat, d)
  | .rdPala => some (.rd, .pala, 0) | .wrPala d => some (.wr, .pala, d)
  | .rdPald => some (.rd, .pald, 0) | .wrPald d => some (.wr, .pald, d)
  | .rdFblo => some (.rd, .fblo, 0) | .wrFblo d => some (.wr, .fblo, d)
  | .rdFbhi => some (.rd, .fbhi, 0) | .wrFbhi d => some (.wr, .fbhi, d)
  | .rdFbext => some (.rd, .fbext, 0) | .wrFbext d => some (.wr, .fbext, d)
  | .rdHrlo => some (.rd, .hrlo, 0) | .wrHrlo d => some (.wr, .hrlo, d)
  | .rdHrhi => some (.rd, .hrhi, 0) | .wrHrhi d => some (.wr, .hrhi, d)
  | .rdVrlo => some (.rd, .vrlo, 0) | .wrVrlo d => some (.wr, .vrlo, d)
  | .rdVrhi => some (.rd, .vrhi, 0) | .wrVrhi d => some (.wr, .vrhi, d)
  | .rdPfmt => some (.rd, .pfmt, 0) | .wrPfmt d => some (.wr, .pfmt, d)
  | .rdDmac => some (.rd, .dmac, 0) | .wrDmac d => some (.wr, .dmac, d)
  | .rdLoff => some (.rd, .loff, 0) | .wrLoff d => some (.wr, .loff, d)
  | .rdSadr => some (.rd, .sadr, 0) | .wrSadr d => some (.wr, .sadr, d)
  | .rdCurs => some (.rd, .curs, 0) | .wrCurs d => some (.wr, .curs, d)
  | .ignoreAen _ _ _ => none
  | .ignoreMiss _ _ _ => none

/-- The sampled lines of an instruction: a register operation is a cycle at `BASE + off` (spec
30_encoding.md R111). -/
def encodeCycle (base : BusAddr) (i : Instr) : Cycle :=
  match i with
  | .ignoreAen k a d => { aen := true, kind := k, addr := a, data := d }
  | .ignoreMiss k a d => { aen := false, kind := k, addr := a, data := d }
  | i =>
    match i.operation with
    | some (k, r, d) => { aen := false, kind := k, addr := base + r.offset.setWidth 16, data := d }
    | none => default

/-- The RAW word of an instruction (spec 30_encoding.md R91, R111). -/
def encode (base : BusAddr) (i : Instr) : RawWord := rawOf (encodeCycle base i)

/-- The REG word of a register operation (spec 30_encoding.md R93). -/
def encodeReg (i : Instr) : Option RegWord :=
  i.operation.map fun (k, r, d) => regBits k r.offset d

/-- The word of an instruction in its row's format, as spec/opcode_table.json numbers it: bit count in whole
bytes, and the number (spec 30_encoding.md R112). -/
def encodeTable (i : Instr) : Nat × Nat :=
  match encodeReg i with
  | some w => (16, w.toNat)
  | none => (32, (rawOf (encodeCycle 0 i)).toNat)

end Sys2Proof
end

