-- ==== Sys2Proof/Machine/State.lean ====
section
/-! DEFINITION. The state of the machine, the reasons a step can stop, and the state after reset. -/

namespace Sys2Proof.Machine

/-- Everything the spec gives the block, in the parts of spec 10_state.md R20, and the model's own `cfg`
(notes/assumptions/3) and `env` (notes/assumptions/1). -/
structure State where
  /-- The parameters, which no step writes (spec 00_scope.md R8). -/
  cfg : Config
  /-- The register side (spec 10_state.md R22 to R30). -/
  regs : RegSide
  /-- The bus engine (spec 10_state.md R31, R32). -/
  bus : Bus
  /-- The fault record (spec 10_state.md R33). -/
  faults : FaultRecord
  /-- The pixel side (spec 10_state.md R34 to R37). -/
  pix : PixelSide
  /-- External memory (spec 10_state.md R38). -/
  mem : Memory
  /-- The blit in progress (spec 10_state.md R39). -/
  blit : Option BlitJob
  /-- Inputs (spec 10_state.md R40). -/
  inputs : Inputs
  /-- The output stream, oldest event first (spec 10_state.md R41). -/
  out : List OutEvent
  /-- The model's bookkeeping of the environment (notes/assumptions/1). -/
  env : Env
deriving DecidableEq, Repr

/-- The one way the machine stops. The block's own five faults are not here: they are records and halt
nothing (spec 60_exceptions.md R285). -/
inductive Fault where
  /-- An access to a byte of memory that does not exist, at or beyond `MEM_CAPACITY` (spec 20_memory.md R63).
  Raised by a host window write to such an address, which is no event of the spec (47_arbiter_blit.md R279), and by
  a blit slice whose job lies outside memory, which no run reaches. Safe: the model stops. -/
  | noSuchAddress (addr : Nat)
deriving DecidableEq, Repr

/-- Moves that the spec does not give the agents. Each stops the model by name; all are safe. -/
inductive Refusal where
  /-- An instruction without a meaning; no arm of `exec` raises it. Safe. -/
  | notModelled (mnemonic : String)
  /-- A strobe that falls while a strobe is low, or rises while it is high: "the model gives the host no move that
  breaks this" (spec 40_bus_engine.md R120). Raised by the strobe events. Safe. -/
  | illFormedStrobe (kind : Kind)
  /-- An agent's step scheduled while it is not enabled (spec 40_bus_engine.md R123, R129, 46_dma_chain.md
  R249, 45_pixel_format.md R239, 47_arbiter_blit.md R273). Raised by the BTE, late read, early lookup and BLIT events.
  Safe. -/
  | notEnabled
  /-- A slice of no byte or of more bytes than are left (spec 47_arbiter_blit.md R273). Raised by the slice. Safe. -/
  | badSliceSize (n : Nat)
  /-- A COPY or XOR whose regions share a byte: "not a legal HOST event" (spec 47_arbiter_blit.md R270,
  93_implementation_defined.md U9). Raised by the submission. Safe. -/
  | overlappingBlit
  /-- An event of the blit engine or the host memory window in a block without it: "the event does not exist"
  (spec 47_arbiter_blit.md R267, R279). Raised by those events. Safe. -/
  | unitAbsent
deriving DecidableEq, Repr

/-- `act` after reset: `resolve` of the zero shadow bytes (spec 70_reset_and_hazards.md R311). -/
def Descriptor.zero : Descriptor :=
  { base := 0, start := 0, stride := 0, width := 0, height := 0, fmt := .bpp1 }

/-- The machine right after reset: the table of spec 10_state.md R47, with the default parameters. The palette's
zeros are the model's choice (DESIGN CHOICE, notes/assumptions/7), as are the inputs (20) and `env` (21). -/
def State.reset : State :=
  { cfg := Config.default
    regs :=
      { ctrl := 0, chainEn := true, blitEn := false, curs := 0, sh := Shadow.zero,
        pal := Vector.replicate 256 { r := 0, g := 0, b := 0 }, palIndex := 0, palChannel := .red,
        timingResetPending := false }
    bus := { bte := .idle, dataOut := none }
    faults := FaultRecord.clear
    pix :=
      { act := Descriptor.zero, actMode := 0, line := 0, col := 0, hsyncOut := false, vsyncOut := false,
        inVblank := false, chain := .stopped, fetchOn := false, curLine := [], lastLine := [] }
    mem := []
    blit := none
    inputs := { rdLow := false, wrLow := false, linkActiveIn := false }
    out := []
    env := { agenda := [], draws := 0, hostRead := none, blitResult := none, lineBytes := none, looked := [] } }

/-- Replace the register side. -/
def State.withRegs (s : State) (r : RegSide) : State := { s with regs := r }
/-- Replace the bus engine. -/
def State.withBus (s : State) (b : Bus) : State := { s with bus := b }
/-- Replace the fault record. -/
def State.withFaults (s : State) (f : FaultRecord) : State := { s with faults := f }
/-- Replace the pixel side. -/
def State.withPix (s : State) (p : PixelSide) : State := { s with pix := p }
/-- Replace external memory. -/
def State.withMem (s : State) (m : Memory) : State := { s with mem := m }
/-- Replace the blit in progress. -/
def State.withBlit (s : State) (b : Option BlitJob) : State := { s with blit := b }
/-- Replace the inputs. -/
def State.withInputs (s : State) (i : Inputs) : State := { s with inputs := i }
/-- Replace the output stream. -/
def State.withOut (s : State) (o : List OutEvent) : State := { s with out := o }
/-- Replace the model's bookkeeping of the environment. -/
def State.withEnv (s : State) (e : Env) : State := { s with env := e }

end Sys2Proof.Machine
end

