-- ==== Sys2Proof/Machine/Flags.lean ====
section
/-! DEFINITION. The computed bytes of Status and DMA Control, and the sticky fault flags. -/

namespace Sys2Proof.Machine

/-- What `raise` does to the flags and counters: the kind's flag set, the kind's counter, if it has one, one
higher (spec 60_exceptions.md R286, R287). -/
def FaultRecord.record (f : FaultRecord) : FaultInfo → FaultRecord
  | .protocolTiming _ => { f with fBus := true, busFaultCount := f.busFaultCount + 1 }
  | .outOfRangeConfiguration _ => { f with fCfg := true }
  | .scanoutUnderrun _ => { f with fUnderrun := true, underrunCount := f.underrunCount + 1 }
  | .blitBounds _ => { f with fBlit := true }

/-- Eight bits as a byte, bit 7 first. -/
def byteOf (b7 b6 b5 b4 b3 b2 b1 b0 : Bool) : Byte :=
  BitVec.ofBool b7 ++ BitVec.ofBool b6 ++ BitVec.ofBool b5 ++ BitVec.ofBool b4 ++ BitVec.ofBool b3 ++
    BitVec.ofBool b2 ++ BitVec.ofBool b1 ++ BitVec.ofBool b0

/-- The Status byte, from one snapshot: bit 0 vsync, bit 1 hsync, bit 2 display enabled, bit 3 link active (spec
41_register_ops.md R142, 30_encoding.md R99). -/
def statusByte (s : State) : Byte :=
  byteOf false false false false s.inputs.linkActiveIn (s.regs.ctrl.getLsbD 0) s.pix.hsyncOut s.pix.vsyncOut

/-- The DMA Control byte, from one snapshot: enables, chain active, blit busy, the four sticky flags; bits 3 and 7 are
always 0 in a block without the blit engine (spec 41_register_ops.md R164, 30_encoding.md R105, 47_arbiter_blit.md
R278). -/
def dmacByte (s : State) : Byte :=
  byteOf (s.cfg.blitPresent && s.faults.fBlit) s.faults.fBus s.faults.fUnderrun s.faults.fCfg
    (s.cfg.blitPresent && s.blit.isSome) (decide (s.pix.chain ≠ .stopped)) s.regs.blitEn s.regs.chainEn

end Sys2Proof.Machine
end

