-- ==== Sys2Proof/Machine/Operands.lean ====
section
/-! DEFINITION. The fields of the data byte and of the Control cell, and the transaction record of a bus cycle. -/

namespace Sys2Proof.Machine

/-- Control bit 0, `enable_output` (spec 30_encoding.md R98). -/
def enableOutput (ctrl : Byte) : Bool := ctrl.getLsbD 0

/-- Control bit 1, `reset_timing` (spec 30_encoding.md R98). -/
def resetTiming (ctrl : Byte) : Bool := ctrl.getLsbD 1

/-- Control bits 4:2, `mode_select` (spec 30_encoding.md R98). -/
def modeSelect (ctrl : Byte) : BitVec 3 := ctrl.extractLsb' 2 3

/-- Control bit 5, `irq_enable` (spec 30_encoding.md R98). -/
def irqEnable (ctrl : Byte) : Bool := ctrl.getLsbD 5

/-- DMA Control bit 0, `chain_en` (spec 30_encoding.md R105). -/
def dmacChainEn (d : Byte) : Bool := d.getLsbD 0

/-- DMA Control bit 1, `blit_en` (spec 30_encoding.md R105). -/
def dmacBlitEn (d : Byte) : Bool := d.getLsbD 1

/-- The transaction record made from the lines at an accepted edge (spec 40_bus_engine.md R122). -/
def Transaction.ofCycle (c : Cycle) : Transaction :=
  { kind := c.kind, addr := c.addr, aen := c.aen, data := c.data, deasserted := false }

/-- The RAW word of a transaction's sampled lines (spec 30_encoding.md R91). -/
def Transaction.raw (t : Transaction) : RawWord := rawBits t.aen t.kind t.addr t.data

/-- The strobe of this kind is low (spec 10_state.md R40). -/
def Inputs.low (i : Inputs) : Kind → Bool
  | .rd => i.rdLow
  | .wr => i.wrLow

/-- The inputs with the strobe of this kind at a level, true being low (spec 10_state.md R40). -/
def Inputs.setStrobe (i : Inputs) (k : Kind) (low : Bool) : Inputs :=
  match k with
  | .rd => { i with rdLow := low }
  | .wr => { i with wrLow := low }

/-- The channel after this one, and whether the triplet is complete (spec 42_palette.md R181). -/
def Channel.next : Channel → Channel
  | .red => .green
  | .green => .blue
  | .blue => .red

/-- One channel byte of a palette entry (spec 20_memory.md R64). -/
def Rgb.channel (e : Rgb) : Channel → Byte
  | .red => e.r
  | .green => e.g
  | .blue => e.b

/-- A palette entry with one channel byte replaced (spec 42_palette.md R181). -/
def Rgb.setChannel (e : Rgb) (c : Channel) (v : Byte) : Rgb :=
  match c with
  | .red => { e with r := v }
  | .green => { e with g := v }
  | .blue => { e with b := v }

end Sys2Proof.Machine
end

