-- ==== Sys2Proof/Machine/Ops.lean ====
section
/-! DEFINITION. The named operations over memory, registers, the bus engine, the fault record and the output stream. -/

namespace Sys2Proof.Machine

/-- What one step answers. -/
abbrev Result := Host.Outcome State Fault Refusal

/-! ### External memory -/

/-- What a byte that nothing has written reads as. The contents at launch are drawn (spec 10_state.md R38);
the model's byte is 0 (DESIGN CHOICE, notes/assumptions/6). -/
def Memory.launch : Byte := 0

/-- The byte at an address (spec 20_memory.md R63). -/
def Memory.read : Memory → Nat → Byte
  | [], _ => Memory.launch
  | (k, v) :: m, a => if k = a then v else Memory.read m a

/-- Write a byte, keeping the canonical form (spec 20_memory.md R63). -/
def Memory.write : Memory → Nat → Byte → Memory
  | [], a, b => if b = Memory.launch then [] else [(a, b)]
  | (k, v) :: m, a, b =>
    if a < k then (if b = Memory.launch then (k, v) :: m else (a, b) :: (k, v) :: m)
    else if a = k then (if b = Memory.launch then m else (a, b) :: m)
    else (k, v) :: Memory.write m a b

/-- Every address is at or above a bound, addresses rise strictly, and no byte equals `Memory.launch`. -/
def Memory.wfFrom : Nat → Memory → Bool
  | _, [] => true
  | n, (k, v) :: m => decide (n ≤ k) && decide (v ≠ Memory.launch) && Memory.wfFrom (k + 1) m

/-- The canonical form: addresses strictly rising, no entry equal to what an unlisted address reads as. -/
def Memory.wf (m : Memory) : Bool := Memory.wfFrom 0 m

/-- No entry lies at or beyond the capacity (spec 10_state.md R38). -/
def Memory.within (cap : Nat) (m : Memory) : Bool := m.all fun c => decide (c.1 < cap)

/-- Byte `k` of a scan-out read, at an address: a byte beyond the memory is a free value (spec 46_dma_chain.md
R250). -/
def scanByte (cap : Nat) (m : Memory) (draw k addr : Nat) : Byte :=
  if addr < cap then m.read addr else Config.strayByte draw k

/-- `ScanRead`: the bytes from `addr` on (spec 46_dma_chain.md R250). -/
def scanRead (cap : Nat) (m : Memory) (draw addr n : Nat) : List Byte :=
  (List.range n).map fun k => scanByte cap m draw k (addr + k)

/-! ### Output stream and faults -/

/-- `emit`: append an event to the output stream (spec 00_scope.md R11). -/
def emit (e : OutEvent) (s : State) : State := s.withOut (s.out ++ [e])

/-- `raise`: flag, counter, log entry, and nothing else; it transfers no control (spec 60_exceptions.md R286).
There is no return: the block has no trap (R294). -/
def raise (f : FaultInfo) (s : State) : State := emit (.faultLog f) (s.withFaults (s.faults.record f))

/-- The free value of the next number is used up (notes/assumptions/21). -/
def nextDraw (s : State) : State := s.withEnv { s.env with draws := s.env.draws + 1 }

/-! ### The bus engine around an operation -/

/-- The strobe of the transaction in DECODE rose before its dispatch (spec 40_bus_engine.md R127). -/
def Bte.missed : Bte → Bool
  | .decode t => t.deasserted
  | _ => false

/-- The engine's state after the effect; it moves only out of DECODE (spec 40_bus_engine.md R123,
notes/assumptions/17). -/
def Bte.after (dest : Transaction → Bte) : Bte → Bte
  | .decode t => dest t
  | b => b

/-- The end of a read operation: drive the value unless the strobe already rose (spec 40_bus_engine.md R123,
R125). -/
def finishRead (v : Byte) (s : State) : State :=
  s.withBus
    { bte := s.bus.bte.after .dispatchRead
      dataOut := if s.bus.bte.missed then s.bus.dataOut else some v }

/-- The end of a write operation: a write never drives (spec 40_bus_engine.md R123, R126). -/
def finishWrite (s : State) : State := s.withBus { s.bus with bte := s.bus.bte.after .dispatchWrite }

/-- The end of an ignored cycle: only the engine moves (spec 40_bus_engine.md R124). -/
def finishIgnore (s : State) : State := s.withBus { s.bus with bte := s.bus.bte.after .ignore }

/-! ### Registers -/

/-- The value of a read of a write-only offset (spec 41_register_ops.md R139). -/
def writeOnlyRead (r : Reg) (s : State) : Byte := Config.woRead r.offset s.regs

/-- The effect of a Control write: store, and request a timing restart if bit 1 is set (spec
41_register_ops.md R141). -/
def applyControl (d : Byte) (s : State) : State :=
  s.withRegs
    { s.regs with
      ctrl := d
      timingResetPending := resetTiming d || s.regs.timingResetPending }

/-- The cursor reset of a Palette Address write (spec 42_palette.md R180). -/
def applyPaletteAddress (d : Byte) (s : State) : State :=
  s.withRegs { s.regs with palIndex := d, palChannel := .red }

/-- The entry at an index (spec 20_memory.md R64). -/
def paletteAt (p : Palette) (i : Byte) : Rgb := p.get i.toFin

/-- The table with the entry at an index replaced (spec 20_memory.md R64). -/
def paletteSet (p : Palette) (i : Byte) (e : Rgb) : Palette := p.set i.toNat e i.isLt

/-- The channel write of a Palette Data write: one byte, then the cursor advances, the index wrapping 255 to 0
after channel 2 (spec 42_palette.md R181, R183). -/
def applyPaletteData (d : Byte) (s : State) : State :=
  let r := s.regs
  s.withRegs
    { r with
      pal := paletteSet r.pal r.palIndex ((paletteAt r.pal r.palIndex).setChannel r.palChannel d)
      palIndex := if r.palChannel = .blue then r.palIndex + 1 else r.palIndex
      palChannel := r.palChannel.next }

/-- The shadow bytes with the byte of an address-class register replaced; the other six registers have no shadow
byte (spec 10_state.md R26). -/
def Shadow.set (sh : Shadow) (d : Byte) : Reg → Shadow
  | .fblo => { sh with fbLo := d }
  | .fbhi => { sh with fbHi := d }
  | .fbext => { sh with fbExt := d }
  | .hrlo => { sh with hresLo := d }
  | .hrhi => { sh with hresHi := d }
  | .vrlo => { sh with vresLo := d }
  | .vrhi => { sh with vresHi := d }
  | .pfmt => { sh with pfmt := d }
  | .loff => { sh with loff := d }
  | .sadr => { sh with sadr := d }
  | .ctrl | .stat | .pala | .pald | .dmac | .curs => sh

/-- The effect of an address-class write: one shadow byte, nothing else (spec 20_memory.md R73). -/
def applyShadow (r : Reg) (d : Byte) (s : State) : State :=
  s.withRegs { s.regs with sh := s.regs.sh.set d r }

/-- The effect of a DMA Control write: bits 1:0 stored, bits 7:2 ignored (spec 41_register_ops.md R165). -/
def applyDmac (d : Byte) (s : State) : State :=
  s.withRegs { s.regs with chainEn := dmacChainEn d, blitEn := dmacBlitEn d }

/-- The effect of a Cursor Control write (spec 41_register_ops.md R171). -/
def applyCursor (d : Byte) (s : State) : State := s.withRegs { s.regs with curs := d }

end Sys2Proof.Machine
end

