-- ==== Sys2Proof/Machine/Blit.lean ====
section
/-! DEFINITION. The blit engine at its port, its slices, and the host memory window. -/

namespace Sys2Proof.Machine

/-- One past the last byte of the region at an address, for a height of at least 1 (spec 47_arbiter_blit.md
R271). -/
def regionEnd (cmd : BlitCmd) (pitch a : Nat) : Nat := a + (cmd.height - 1) * pitch + cmd.width

/-- `in_bounds`: the command's regions lie inside the memory; a fill has no source to check (spec
47_arbiter_blit.md R271). -/
def inBounds (cap : Nat) (cmd : BlitCmd) (pitch : Nat) : Bool :=
  decide (cmd.width = 0) || decide (cmd.height = 0) ||
    (decide (regionEnd cmd pitch cmd.dst ≤ cap) &&
      (decide (cmd.op = .fill) || decide (regionEnd cmd pitch cmd.src ≤ cap)))

/-- The two rows share a byte: `n` bytes at `a` and `n` bytes at `b`. -/
def rowsMeet (n a b : Nat) : Bool := decide (a < b + n) && decide (b < a + n)

/-- The source and destination regions share a byte (spec 47_arbiter_blit.md R270). -/
def regionsMeet (cmd : BlitCmd) (pitch : Nat) : Bool :=
  (List.range cmd.height).any fun r =>
    (List.range cmd.height).any fun q =>
      rowsMeet cmd.width (cmd.src + r * pitch) (cmd.dst + q * pitch)

/-- The command is a COPY or XOR whose regions share a byte: not a legal event (spec 47_arbiter_blit.md R270,
93_implementation_defined.md U9). -/
def illegalOverlap (cmd : BlitCmd) (pitch : Nat) : Bool := decide (cmd.op ≠ .fill) && regionsMeet cmd pitch

/-- The submission's answer to the host (spec 47_arbiter_blit.md R267; notes/assumptions/21). -/
def answerBlit (r : BlitResult) (s : State) : State := s.withEnv { s.env with blitResult := some r }

/-- `BlitSubmit`, one atomic step: busy when disabled or occupied, then the bounds, then the empty command, then
acceptance with the pitch of the active descriptor (spec 47_arbiter_blit.md R270, R272, R274). -/
def blitSubmit (cmd : BlitCmd) (s : State) : Result :=
  if s.cfg.blitPresent then
    if !s.regs.blitEn then .next (answerBlit .busy s)
    else if s.blit.isSome then .next (answerBlit .busy s)
    else if !inBounds s.cfg.memCapacity cmd s.pix.act.stride then
      .next (answerBlit .boundsError (raise (.blitBounds cmd) s))
    else if cmd.width * cmd.height = 0 then .next (answerBlit .success s)
    else if illegalOverlap cmd s.pix.act.stride then .refused .overlappingBlit
    else
      .next (answerBlit .success (s.withBlit (some { cmd := cmd, pitch := s.pix.act.stride, next := 0 })))
  else .refused .unitAbsent

/-- The address of byte `k` of the region at `a` (spec 47_arbiter_blit.md R273). -/
def regionAddr (j : BlitJob) (a k : Nat) : Nat := a + k / j.cmd.width * j.pitch + k % j.cmd.width

/-- The value byte `k` of a blit writes (spec 47_arbiter_blit.md R273). -/
def blitValue (fill : Byte) (j : BlitJob) (m : Memory) (k : Nat) : Byte :=
  match j.cmd.op with
  | .copy => m.read (regionAddr j j.cmd.src k)
  | .fill => fill
  | .xor => m.read (regionAddr j j.cmd.dst k) ^^^ m.read (regionAddr j j.cmd.src k)

/-- Byte `k` of a blit (spec 47_arbiter_blit.md R273). -/
def blitByte (fill : Byte) (j : BlitJob) (m : Memory) (k : Nat) : Memory :=
  m.write (regionAddr j j.cmd.dst k) (blitValue fill j m k)

/-- Bytes `from` to `from + n - 1` of a blit, in ascending order (spec 47_arbiter_blit.md R273). -/
def blitBytes (fill : Byte) (j : BlitJob) (start n : Nat) (m : Memory) : Memory :=
  (List.range' start n).foldl (blitByte fill j) m

/-- The bytes a command processes (spec 47_arbiter_blit.md R273). -/
def BlitCmd.total (c : BlitCmd) : Nat := c.width * c.height

/-- The blit after `n` more bytes: none on completion (spec 47_arbiter_blit.md R273, R276). -/
def BlitJob.advance (j : BlitJob) (n : Nat) : Option BlitJob :=
  if j.next + n = j.cmd.total then none else some { j with next := j.next + n }

/-- `blit_slice`, one step of BLIT, enabled while a blit is in progress and `in_vblank` (spec
47_arbiter_blit.md R273). -/
def blitSlice (n : Nat) (s : State) : Result :=
  match s.blit with
  | none => .refused .notEnabled
  | some j =>
    if !s.pix.inVblank then .refused .notEnabled
    else if n = 0 ∨ j.cmd.total < j.next + n then .refused (.badSliceSize n)
    else if !inBounds s.cfg.memCapacity j.cmd j.pitch then .fault (.noSuchAddress (regionEnd j.cmd j.pitch j.cmd.dst))
    else
      .next ((s.withMem (blitBytes s.cfg.blitFillValue j j.next n s.mem)).withBlit (j.advance n))

/-- `HostMemWrite`: one byte of memory, atomically (spec 47_arbiter_blit.md R279). -/
def hostMemWrite (a : Nat) (v : Byte) (s : State) : Result :=
  if s.cfg.hostMemWindowPresent then
    if a < s.cfg.memCapacity then .next (s.withMem (s.mem.write a v)) else .fault (.noSuchAddress a)
  else .refused .unitAbsent

end Sys2Proof.Machine
end

