-- ==== Sys2Proof/Machine/AddressOps.lean ====
section
/-! DEFINITION. Meanings of the operations on the ten address-class registers, whose writes go to the ShadowRegisters. -/

namespace Sys2Proof.Machine

/-- `RD.FBLO`, read Framebuffer Address lo: the offset is write-only, so the value is `WO_READ` (spec 41_register_ops.md R148). -/
def execRdFblo (s : State) : Result := .next (finishRead (writeOnlyRead .fblo s) s)

/-- `WR.FBLO`, write Framebuffer Address lo: one shadow byte (spec 41_register_ops.md R149). -/
def execWrFblo (d : Byte) (s : State) : Result := .next (finishWrite (applyShadow .fblo d s))

/-- `RD.FBHI`, read Framebuffer Address hi: the offset is write-only, so the value is `WO_READ` (spec 41_register_ops.md R150). -/
def execRdFbhi (s : State) : Result := .next (finishRead (writeOnlyRead .fbhi s) s)

/-- `WR.FBHI`, write Framebuffer Address hi: one shadow byte (spec 41_register_ops.md R151). -/
def execWrFbhi (d : Byte) (s : State) : Result := .next (finishWrite (applyShadow .fbhi d s))

/-- `RD.FBEXT`, read Framebuffer Address ext: the offset is write-only, so the value is `WO_READ` (spec 41_register_ops.md R152). -/
def execRdFbext (s : State) : Result := .next (finishRead (writeOnlyRead .fbext s) s)

/-- `WR.FBEXT`, write Framebuffer Address ext: one shadow byte (spec 41_register_ops.md R153). -/
def execWrFbext (d : Byte) (s : State) : Result := .next (finishWrite (applyShadow .fbext d s))

/-- `RD.HRLO`, read H-Resolution lo: the offset is write-only, so the value is `WO_READ` (spec 41_register_ops.md R154). -/
def execRdHrlo (s : State) : Result := .next (finishRead (writeOnlyRead .hrlo s) s)

/-- `WR.HRLO`, write H-Resolution lo: one shadow byte (spec 41_register_ops.md R155). -/
def execWrHrlo (d : Byte) (s : State) : Result := .next (finishWrite (applyShadow .hrlo d s))

/-- `RD.HRHI`, read H-Resolution hi: the offset is write-only, so the value is `WO_READ` (spec 41_register_ops.md R156). -/
def execRdHrhi (s : State) : Result := .next (finishRead (writeOnlyRead .hrhi s) s)

/-- `WR.HRHI`, write H-Resolution hi: one shadow byte (spec 41_register_ops.md R157). -/
def execWrHrhi (d : Byte) (s : State) : Result := .next (finishWrite (applyShadow .hrhi d s))

/-- `RD.VRLO`, read V-Resolution lo: the offset is write-only, so the value is `WO_READ` (spec 41_register_ops.md R158). -/
def execRdVrlo (s : State) : Result := .next (finishRead (writeOnlyRead .vrlo s) s)

/-- `WR.VRLO`, write V-Resolution lo: one shadow byte (spec 41_register_ops.md R159). -/
def execWrVrlo (d : Byte) (s : State) : Result := .next (finishWrite (applyShadow .vrlo d s))

/-- `RD.VRHI`, read V-Resolution hi: the offset is write-only, so the value is `WO_READ` (spec 41_register_ops.md R160). -/
def execRdVrhi (s : State) : Result := .next (finishRead (writeOnlyRead .vrhi s) s)

/-- `WR.VRHI`, write V-Resolution hi: one shadow byte (spec 41_register_ops.md R161). -/
def execWrVrhi (d : Byte) (s : State) : Result := .next (finishWrite (applyShadow .vrhi d s))

/-- `RD.PFMT`, read Pixel Format: the offset is write-only, so the value is `WO_READ` (spec 41_register_ops.md R162). -/
def execRdPfmt (s : State) : Result := .next (finishRead (writeOnlyRead .pfmt s) s)

/-- `WR.PFMT`, write Pixel Format: one shadow byte (spec 41_register_ops.md R163). -/
def execWrPfmt (d : Byte) (s : State) : Result := .next (finishWrite (applyShadow .pfmt d s))

/-- `RD.LOFF`, read Line Offset: the offset is write-only, so the value is `WO_READ` (spec 41_register_ops.md R166). -/
def execRdLoff (s : State) : Result := .next (finishRead (writeOnlyRead .loff s) s)

/-- `WR.LOFF`, write Line Offset: one shadow byte (spec 41_register_ops.md R167). -/
def execWrLoff (d : Byte) (s : State) : Result := .next (finishWrite (applyShadow .loff d s))

/-- `RD.SADR`, read Start Address: the offset is write-only, so the value is `WO_READ` (spec 41_register_ops.md R168). -/
def execRdSadr (s : State) : Result := .next (finishRead (writeOnlyRead .sadr s) s)

/-- `WR.SADR`, write Start Address: one shadow byte (spec 41_register_ops.md R169). -/
def execWrSadr (d : Byte) (s : State) : Result := .next (finishWrite (applyShadow .sadr d s))

end Sys2Proof.Machine
end

