-- ==== Sys2Proof/Machine/ControlOps.lean ====
section
/-! DEFINITION. Meanings of the operations on Control and Cursor Control, the two plain read/write cells. -/

namespace Sys2Proof.Machine

/-- `RD.CTRL`, read Control: the stored cell (spec 41_register_ops.md R140). -/
def execRdCtrl (s : State) : Result := .next (finishRead s.regs.ctrl s)

/-- `WR.CTRL`, write Control: store, and a restart request if bit 1 is set (spec 41_register_ops.md R141). -/
def execWrCtrl (d : Byte) (s : State) : Result := .next (finishWrite (applyControl d s))

/-- `RD.CURS`, read Cursor Control: the stored cell (spec 41_register_ops.md R170). -/
def execRdCurs (s : State) : Result := .next (finishRead s.regs.curs s)

/-- `WR.CURS`, write Cursor Control: store (spec 41_register_ops.md R171). -/
def execWrCurs (d : Byte) (s : State) : Result := .next (finishWrite (applyCursor d s))

end Sys2Proof.Machine
end

