-- ==== Sys2Proof/Machine/IgnoreOps.lean ====
section
/-! DEFINITION. Meanings of the two ignore classes. -/

namespace Sys2Proof.Machine

/-- `IGNORE.AEN`: a DMA cycle owns the bus; nothing is driven and nothing changes but the engine's state (spec
40_bus_engine.md R124). -/
def execIgnoreAen (_kind : Kind) (_addr : BusAddr) (_data : Byte) (s : State) : Result := .next (finishIgnore s)

/-- `IGNORE.MISS`: the address is outside the window; DecodeMiss is "silently ignored" (spec 40_bus_engine.md
R124, 60_exceptions.md R292). -/
def execIgnoreMiss (_kind : Kind) (_addr : BusAddr) (_data : Byte) (s : State) : Result := .next (finishIgnore s)

end Sys2Proof.Machine
end

