-- ==== Sys2Proof/Machine/PaletteOps.lean ====
section
/-! DEFINITION. Meanings of the operations on Palette Address and Palette Data. -/

namespace Sys2Proof.Machine

/-- `RD.PALA`, read Palette Address: the offset is write-only, so the value is `WO_READ` (spec 41_register_ops.md R144). -/
def execRdPala (s : State) : Result := .next (finishRead (writeOnlyRead .pala s) s)

/-- `WR.PALA`, write Palette Address: the cursor reset (spec 41_register_ops.md R145). -/
def execWrPala (d : Byte) (s : State) : Result := .next (finishWrite (applyPaletteAddress d s))

/-- `RD.PALD`, read Palette Data: the offset is write-only, so the value is `WO_READ` (spec 41_register_ops.md R146). -/
def execRdPald (s : State) : Result := .next (finishRead (writeOnlyRead .pald s) s)

/-- `WR.PALD`, write Palette Data: the channel write (spec 41_register_ops.md R147). -/
def execWrPald (d : Byte) (s : State) : Result := .next (finishWrite (applyPaletteData d s))

end Sys2Proof.Machine
end

