-- ==== Sys2Proof/Machine/StatusOps.lean ====
section
/-! DEFINITION. Meanings of the operations on Status and DMA Control, the two registers with computed reads. -/

namespace Sys2Proof.Machine

/-- `RD.STAT`, read Status: the computed status byte (spec 41_register_ops.md R142). -/
def execRdStat (s : State) : Result := .next (finishRead (statusByte s) s)

/-- `WR.STAT`, write Status: accepted and ignored, the data unused (spec 41_register_ops.md R143). -/
def execWrStat (_d : Byte) (s : State) : Result := .next (finishWrite s)

/-- `RD.DMAC`, read DMA Control: computed status and stored enables (spec 41_register_ops.md R164). -/
def execRdDmac (s : State) : Result := .next (finishRead (dmacByte s) s)

/-- `WR.DMAC`, write DMA Control: the two stored enables (spec 41_register_ops.md R165). -/
def execWrDmac (d : Byte) (s : State) : Result := .next (finishWrite (applyDmac d s))

end Sys2Proof.Machine
end

