-- ==== Sys2Proof/Machine/Dispatch.lean ====
section
/-! DEFINITION. The dispatch: one arm per constructor of Instr. -/

namespace Sys2Proof.Machine

def exec (i : Instr) (s : State) : Host.Outcome State Fault Refusal :=
  match i with
  | .rdCtrl => Sys2Proof.Machine.execRdCtrl s
  | .wrCtrl d => Sys2Proof.Machine.execWrCtrl d s
  | .rdStat => Sys2Proof.Machine.execRdStat s
  | .wrStat d => Sys2Proof.Machine.execWrStat d s
  | .rdPala => Sys2Proof.Machine.execRdPala s
  | .wrPala d => Sys2Proof.Machine.execWrPala d s
  | .rdPald => Sys2Proof.Machine.execRdPald s
  | .wrPald d => Sys2Proof.Machine.execWrPald d s
  | .rdFblo => Sys2Proof.Machine.execRdFblo s
  | .wrFblo d => Sys2Proof.Machine.execWrFblo d s
  | .rdFbhi => Sys2Proof.Machine.execRdFbhi s
  | .wrFbhi d => Sys2Proof.Machine.execWrFbhi d s
  | .rdFbext => Sys2Proof.Machine.execRdFbext s
  | .wrFbext d => Sys2Proof.Machine.execWrFbext d s
  | .rdHrlo => Sys2Proof.Machine.execRdHrlo s
  | .wrHrlo d => Sys2Proof.Machine.execWrHrlo d s
  | .rdHrhi => Sys2Proof.Machine.execRdHrhi s
  | .wrHrhi d => Sys2Proof.Machine.execWrHrhi d s
  | .rdVrlo => Sys2Proof.Machine.execRdVrlo s
  | .wrVrlo d => Sys2Proof.Machine.execWrVrlo d s
  | .rdVrhi => Sys2Proof.Machine.execRdVrhi s
  | .wrVrhi d => Sys2Proof.Machine.execWrVrhi d s
  | .rdPfmt => Sys2Proof.Machine.execRdPfmt s
  | .wrPfmt d => Sys2Proof.Machine.execWrPfmt d s
  | .rdDmac => Sys2Proof.Machine.execRdDmac s
  | .wrDmac d => Sys2Proof.Machine.execWrDmac d s
  | .rdLoff => Sys2Proof.Machine.execRdLoff s
  | .wrLoff d => Sys2Proof.Machine.execWrLoff d s
  | .rdSadr => Sys2Proof.Machine.execRdSadr s
  | .wrSadr d => Sys2Proof.Machine.execWrSadr d s
  | .rdCurs => Sys2Proof.Machine.execRdCurs s
  | .wrCurs d => Sys2Proof.Machine.execWrCurs d s
  | .ignoreAen k a d => Sys2Proof.Machine.execIgnoreAen k a d s
  | .ignoreMiss k a d => Sys2Proof.Machine.execIgnoreMiss k a d s

end Sys2Proof.Machine
end

