-- ==== Sys2Proof/Machine/BusEngine.lean ====
section
/-! DEFINITION. The bus transaction engine: strobe edges, dispatch and retire. -/

namespace Sys2Proof.Machine

/-- A falling edge with these lines: accepted in IDLE, a ProtocolTimingFault and dropped otherwise, whatever its
address or AEN (spec 40_bus_engine.md R122, R130). -/
def acceptEdge (c : Cycle) (s : State) : State :=
  match s.bus.bte with
  | .idle => s.withBus { s.bus with bte := .decode (Transaction.ofCycle c) }
  | _ => raise (.protocolTiming .edgeWhileBusy) s

/-- `StrobeFall`: legal when both strobes are high (spec 40_bus_engine.md R120). -/
def strobeFall (c : Cycle) (s : State) : Result :=
  if s.inputs.rdLow || s.inputs.wrLow then .refused (.illFormedStrobe c.kind)
  else .next (acceptEdge c (s.withInputs (s.inputs.setStrobe c.kind true)))

/-- A rise that overtakes the dispatch of its own transaction: noted, and a ProtocolTimingFault (spec
40_bus_engine.md R127). -/
def missDeadline (k : Kind) (s : State) : State :=
  match s.bus.bte with
  | .decode t =>
    if t.kind = k then
      raise (.protocolTiming .missedDeadline)
        (s.withBus { s.bus with bte := .decode { t with deasserted := true } })
    else s
  | _ => s

/-- What the host takes at the rise of the read strobe: the driven value, or a free value when nothing is driven
(spec 40_bus_engine.md R133). -/
def hostTakes (s : State) : State :=
  match s.bus.dataOut with
  | some v => s.withEnv { s.env with hostRead := some v }
  | none =>
    s.withEnv { s.env with hostRead := some (Config.undrivenByte s.env.draws), draws := s.env.draws + 1 }

/-- The release of the data lines at the rise of the read strobe (spec 40_bus_engine.md R128, R133). -/
def releaseData (k : Kind) (s : State) : State :=
  match k with
  | .rd =>
    let s := hostTakes s
    s.withBus { s.bus with dataOut := none }
  | .wr => s

/-- `StrobeRise`: legal when the strobe is low; it never moves the engine (spec 40_bus_engine.md R120, R127,
R128). -/
def strobeRise (k : Kind) (s : State) : Result :=
  if s.inputs.low k then .next (missDeadline k (releaseData k (s.withInputs (s.inputs.setStrobe k false))))
  else .refused (.illFormedStrobe k)

/-- The instruction of a transaction: the window decode of its RAW word (spec 40_bus_engine.md R123). -/
def fetched (s : State) (t : Transaction) : Instr := decode s.cfg.base t.raw

/-- The engine's enabled internal step: dispatch in DECODE, which performs the decoded operation, retire in the
three states after it, none in IDLE (spec 40_bus_engine.md R123, R129). -/
def bteStep (s : State) : Result :=
  match s.bus.bte with
  | .decode t => exec (fetched s t) s
  | .dispatchRead _ => .next (s.withBus { s.bus with bte := .idle })
  | .dispatchWrite _ => .next (s.withBus { s.bus with bte := .idle })
  | .ignore _ => .next (s.withBus { s.bus with bte := .idle })
  | .idle => .refused .notEnabled

end Sys2Proof.Machine
end

