-- ==== Sys2Proof/Machine/ResetOp.lean ====
section
/-! DEFINITION. The reset event, and the input of the display link. -/

namespace Sys2Proof.Machine

/-- The register side after reset (spec 10_state.md R47), with the drawn palette (R27). -/
def RegSide.afterReset (r : ResetValues) (pal : Palette) : RegSide :=
  { ctrl := r.ctrl, chainEn := r.chainEn, blitEn := r.blitEn, curs := r.curs, sh := r.sh, pal := pal,
    palIndex := r.palIndex, palChannel := r.palChannel, timingResetPending := r.timingResetPending }

/-- The pixel side after reset (spec 10_state.md R47); `act` is `resolve` of the reset shadow bytes
(70_reset_and_hazards.md R311), and stays as it is for a parameter that is not legal (notes/assumptions/22). -/
def PixelSide.afterReset (cfg : Config) (p : PixelSide) : PixelSide :=
  let r := cfg.reset
  { act := (resolve cfg r.sh).getD p.act, actMode := r.actMode, line := r.line, col := r.col,
    hsyncOut := r.hsyncOut, vsyncOut := r.vsyncOut, inVblank := r.inVblank, chain := r.chain,
    fetchOn := r.fetchOn, curLine := r.curLine, lastLine := r.lastLine }

/-- `Reset`: every piece of state takes its reset value, the field of `RESET`, and the palette is drawn anew; memory,
the inputs, the parameters and the output stream's history stay (spec 70_reset_and_hazards.md R310, R312). With the
default `RESET` the engine is idle, nothing is driven and a blit in progress is dropped (R312, 47_arbiter_blit.md R280;
notes/assumptions/22). -/
def resetEvent (pal : Palette) (s : State) : State :=
  { s with
    regs := RegSide.afterReset s.cfg.reset pal
    bus := { bte := s.cfg.reset.bte, dataOut := s.cfg.reset.dataOut }
    faults := s.cfg.reset.faults
    pix := PixelSide.afterReset s.cfg s.pix
    blit := s.cfg.reset.blit
    env := { s.env with lineBytes := none, looked := [] } }

/-- The display link changes `link_active_in` (spec 10_state.md R40, 93_implementation_defined.md U19). -/
def setLink (level : Bool) (s : State) : State := s.withInputs { s.inputs with linkActiveIn := level }

end Sys2Proof.Machine
end

