-- ==== Sys2Proof/Machine/PixelFormat.lean ====
section
/-! DEFINITION. The pixel format converter: unpack at the line arm, present at the emission. -/

namespace Sys2Proof.Machine

/-- `BLANK` (spec 45_pixel_format.md R231). -/
def PixelValue.blank : PixelValue := .rgb888 0 0 0

/-- The stored pixel of a blank line (spec 45_pixel_format.md R231). -/
def StoredPixel.blank : StoredPixel := .direct PixelValue.blank

/-- The bytes of a line, by place; `unpack` is given as many bytes as it asks for (spec 45_pixel_format.md
R232, R241; beyond them 0, notes/assumptions/23). -/
def lineByte (bytes : List Byte) (k : Nat) : Byte := bytes.getD k 0

/-- Which bit of its byte pixel `j` of a byte of FMT_1BPP is (spec 45_pixel_format.md R233). -/
def bitPlace (order : BitOrder) (j : Nat) : Nat :=
  match order with
  | .msbFirst => 7 - j
  | .lsbFirst => j

/-- The nibble of a byte of FMT_4BPP that pixel `k` takes (spec 45_pixel_format.md R234). -/
def nibbleOf (order : BitOrder) (b : Byte) (k : Nat) : BitVec 4 :=
  match order with
  | .msbFirst => if k % 2 = 0 then b.extractLsb' 4 4 else b.extractLsb' 0 4
  | .lsbFirst => if k % 2 = 0 then b.extractLsb' 0 4 else b.extractLsb' 4 4

/-- Pixel `k` of a line, 0 the leftmost (spec 45_pixel_format.md R233 to R237). -/
def pixelOf (order : BitOrder) (fmt : PixelFormat) (bytes : List Byte) (k : Nat) : StoredPixel :=
  match fmt with
  | .bpp1 => .index ((BitVec.ofBool ((lineByte bytes (k / 8)).getLsbD (bitPlace order (k % 8)))).setWidth 8)
  | .bpp4 => .index ((nibbleOf order (lineByte bytes (k / 2)) k).setWidth 8)
  | .bpp8 => .index (lineByte bytes k)
  | .bpp16 => .direct (.rgb565 (lineByte bytes (2 * k + 1) ++ lineByte bytes (2 * k)))
  | .bpp24 => .direct (.rgb888 (lineByte bytes (3 * k)) (lineByte bytes (3 * k + 1)) (lineByte bytes (3 * k + 2)))

/-- `unpack`: the stored pixels of a line (spec 45_pixel_format.md R232). -/
def unpack (order : BitOrder) (bytes : List Byte) (fmt : PixelFormat) (width : Nat) : List StoredPixel :=
  (List.range width).map (pixelOf order fmt bytes)

/-- The first pixel that depends on byte `k` of its line (spec 45_pixel_format.md R233 to R237, 46_dma_chain.md
R249). -/
def firstPixel (fmt : PixelFormat) (k : Nat) : Nat :=
  match fmt with
  | .bpp1 => 8 * k
  | .bpp4 => 2 * k
  | .bpp8 => k
  | .bpp16 => k / 2
  | .bpp24 => k / 3

/-- Pixel `j` of a palette format is taken from byte `k` of its line (spec 45_pixel_format.md R233 to R235). -/
def indexFrom (fmt : PixelFormat) (j k : Nat) : Bool :=
  match fmt with
  | .bpp1 => j / 8 == k
  | .bpp4 => j / 2 == k
  | .bpp8 => j == k
  | .bpp16 => false
  | .bpp24 => false

/-- One channel of the lookup of pixel `k`, of index `i`: the byte looked up ahead, if there is one, else the entry
as it stands (spec 42_palette.md R185). -/
def lookupChannel (pal : Palette) (looked : List (Nat × Channel × Byte)) (k : Nat) (i : Byte) (ch : Channel) : Byte :=
  match looked.find? fun q => q.1 == k && q.2.1 == ch with
  | some q => q.2.2
  | none => (paletteAt pal i).channel ch

/-- `present`, for the stored pixel of column `k`: a direct colour passes, an index is looked up in the palette
(spec 45_pixel_format.md R239, 42_palette.md R185). -/
def present (pal : Palette) (looked : List (Nat × Channel × Byte)) (k : Nat) : StoredPixel → PixelValue
  | .direct v => v
  | .index i =>
    .rgb888 (lookupChannel pal looked k i .red) (lookupChannel pal looked k i .green)
      (lookupChannel pal looked k i .blue)

end Sys2Proof.Machine
end

