-- ==== Sys2Proof/Machine/DmaChain.lean ====
section
/-! DEFINITION. The DMA chain controller: arming a line, and the fetch of its bytes. -/

namespace Sys2Proof.Machine

/-- `W` copies of `Direct(BLANK)` (spec 46_dma_chain.md R248, R253). -/
def blankLine (w : Nat) : List StoredPixel := List.replicate w StoredPixel.blank

/-- The ScanlineDescriptor of an active line (spec 46_dma_chain.md R246). -/
structure Scanline where
  src : Nat
  len : Nat
  count : Nat
  lineRepeat : Nat
deriving DecidableEq, Repr

/-- The ScanlineDescriptor of the output line at hand, built from the active descriptor only (spec
46_dma_chain.md R246). -/
def scanlineOf (cfg : Config) (p : PixelSide) : Scanline :=
  let lr := (timingOf cfg p.actMode).lineRepeat
  { src := scanBase cfg p.act + p.line / lr * p.act.stride
    len := p.act.lineBytes
    count := activeWidth p
    lineRepeat := lr }

/-- The line at hand is active and has a pixel (spec 46_dma_chain.md R247). -/
def lineActive (cfg : Config) (p : PixelSide) : Bool :=
  decide (p.line < activeLines cfg p) && decide (0 < activeWidth p)

/-- The first part of `arm_line`: the chain and `fetch_on`, from the enables as they stand at this tick (spec
46_dma_chain.md R247). -/
def armChain (s : State) : State :=
  s.withPix
    { s.pix with
      chain := if s.regs.chainEn then (if lineActive s.cfg s.pix then .pix else .blk) else .stopped
      fetchOn := s.regs.chainEn && (enableOutput s.regs.ctrl && lineActive s.cfg s.pix) }

/-- The bytes of the line at hand, from memory as it stands (spec 46_dma_chain.md R249, R250). -/
def fetchBytes (s : State) : List Byte :=
  scanRead s.cfg.memCapacity s.mem s.env.draws (scanlineOf s.cfg s.pix).src (scanlineOf s.cfg s.pix).len

/-- The pixels of the line at hand that these bytes make (spec 46_dma_chain.md R248). -/
def linePixels (s : State) (bytes : List Byte) : List StoredPixel :=
  unpack s.cfg.bitOrder bytes s.pix.act.fmt (activeWidth s.pix)

/-- The pixels of the line at hand, fetched from memory as it stands (spec 46_dma_chain.md R248 to R250). -/
def fetchLine (s : State) : List StoredPixel := linePixels s (fetchBytes s)

/-- A line starts: the bytes it is unpacked from, if it is read from memory, and no palette channel looked up ahead
(spec 46_dma_chain.md R249, 45_pixel_format.md R239; notes/assumptions/19). -/
def startLine (bytes : Option (List Byte)) (s : State) : State :=
  s.withEnv { s.env with lineBytes := bytes, looked := [] }

/-- `fill_line`: blank when not fetching, the last valid line on an underrun, the fetched pixels otherwise (spec
46_dma_chain.md R248, R253, R254). -/
def fillLine (underrun : Bool) (s : State) : State :=
  if s.pix.fetchOn then
    if underrun then
      (raise (.scanoutUnderrun s.pix.line) (startLine none s)).withPix { s.pix with curLine := s.pix.lastLine }
    else
      (nextDraw (startLine (some (fetchBytes s)) s)).withPix
        { s.pix with curLine := fetchLine s, lastLine := fetchLine s }
  else (startLine none s).withPix { s.pix with curLine := blankLine (activeWidth s.pix) }

/-- `arm_line` (spec 46_dma_chain.md R247). -/
def armLine (underrun : Bool) (s : State) : State := fillLine underrun (armChain s)

/-- Completion of the pixel transfer triggers the blanking transfer: at column `W` of an active line (spec
46_dma_chain.md R251, 44_timing_sync.md R209). -/
def endPixelTransfer (s : State) : State :=
  if s.pix.line < activeLines s.cfg s.pix ∧ s.pix.col = activeWidth s.pix ∧ s.pix.chain = .pix then
    s.withPix { s.pix with chain := .blk }
  else s

/-! ### The windows: a byte read later than the arm, a pixel looked up earlier than its emission -/

/-- Byte `k` of the line being shown may still be read: no pixel that depends on it was emitted (spec
46_dma_chain.md R249). -/
def readOpen (s : State) (bytes : List Byte) (k : Nat) : Bool :=
  decide (k < bytes.length) && decide (0 < s.pix.col) && decide (s.pix.col ≤ firstPixel s.pix.act.fmt k)

/-- Byte `k` of the line being shown, from memory as it stands (spec 46_dma_chain.md R249, R250). -/
def lateByte (s : State) (k : Nat) : Byte :=
  scanByte s.cfg.memCapacity s.mem s.env.draws k ((scanlineOf s.cfg s.pix).src + k)

/-- Byte `k` of the line being shown is read now, and not at the arm: the line is what it is with the byte as it
stands now, and a pixel of it that was looked up is to be looked up again (spec 46_dma_chain.md R249;
notes/assumptions/19). -/
def lateRead (k : Nat) (s : State) : Result :=
  match s.env.lineBytes with
  | none => .refused .notEnabled
  | some bytes =>
    if readOpen s bytes k then
      let bytes' := bytes.set k (lateByte s k)
      .next
        ((s.withPix { s.pix with curLine := linePixels s bytes', lastLine := linePixels s bytes' }).withEnv
          { s.env with
            draws := s.env.draws + 1
            lineBytes := some bytes'
            looked := s.env.looked.filter fun q => !indexFrom s.pix.act.fmt q.1 k })
    else .refused .notEnabled

/-- One channel of pixel `k` of the line being shown is looked up now, and not at the pixel's emission (spec
45_pixel_format.md R239, 42_palette.md R185; notes/assumptions/19). -/
def earlyLookup (k : Nat) (ch : Channel) (s : State) : Result :=
  if decide (0 < s.pix.col) && decide (s.pix.col ≤ k) then
    match s.pix.curLine[k]? with
    | some (.index i) =>
      .next
        (s.withEnv { s.env with looked := (k, ch, (paletteAt s.regs.pal i).channel ch) :: s.env.looked })
    | some (.direct _) => .refused .notEnabled
    | none => .refused .notEnabled
  else .refused .notEnabled

end Sys2Proof.Machine
end

