-- ==== Sys2Proof/Machine/Scan.lean ====
section
/-! DEFINITION. The pixel-clock tick: the vblank event with its latch, the line arm, sync, pixel, advance. -/

namespace Sys2Proof.Machine

/-- The latch: `act_mode` always, `act` if the shadow bytes resolve, else OutOfRangeConfiguration (spec
43_fb_resolve.md R197, R198). -/
def latch (s : State) : State :=
  match resolve s.cfg s.regs.sh with
  | some d => s.withPix { s.pix with actMode := modeSelect s.regs.ctrl, act := d }
  | none =>
    raise (.outOfRangeConfiguration s.regs.sh) (s.withPix { s.pix with actMode := modeSelect s.regs.ctrl })

/-- `Vblank`, and `Irq` when Control bit 5 is set (spec 44_timing_sync.md R212, 60_exceptions.md R293). -/
def emitVblank (s : State) : State :=
  if irqEnable s.regs.ctrl then emit .irq (emit .vblank s) else emit .vblank s

/-- The line at which a restart or a re-basing puts the position; the column is 0 in every case (spec
44_timing_sync.md R213, R214). -/
def vblankLine (s : State) : Nat :=
  if s.regs.timingResetPending && decide (s.cfg.restartPos = .frameStart) then 0 else activeLines s.cfg s.pix

/-- The position and `last_line` after the latch, and a pending restart honoured (spec 44_timing_sync.md R212
to R214). -/
def rebase (s : State) : State :=
  (s.withPix
      { s.pix with line := vblankLine s, col := 0, lastLine := blankLine (activeWidth s.pix) }).withRegs
    { s.regs with timingResetPending := false }

/-- The vblank event (spec 44_timing_sync.md R212). -/
def vblankEvent (s : State) : State := rebase (emitVblank (latch s))

/-- The position at which the vblank event happens (spec 44_timing_sync.md R210). -/
def atVblank (s : State) : Bool := decide (s.pix.col = 0) && decide (s.pix.line = activeLines s.cfg s.pix)

/-- One sync output: stored, and an edge event when it changes (spec 44_timing_sync.md R221). -/
def syncEdges (s : State) : State :=
  let vs := inVsync s.cfg s.pix
  let hs := inHsync s.cfg s.pix
  let s₁ := if vs != s.pix.vsyncOut then emit (.vsyncEdge vs) s else s
  let s₂ := if hs != s.pix.hsyncOut then emit (.hsyncEdge hs) s₁ else s₁
  s₂.withPix
    { s.pix with vsyncOut := vs, hsyncOut := hs, inVblank := decide (activeLines s.cfg s.pix ≤ s.pix.line) }

/-- The value of the pixel at the position, gated by enable-output at this tick (spec 44_timing_sync.md R220;
a column without a stored pixel, which no run reaches, is blank, notes/assumptions/23). -/
def pixelHere (s : State) : PixelValue :=
  if enableOutput s.regs.ctrl then
    present s.regs.pal s.env.looked s.pix.col (s.pix.curLine.getD s.pix.col StoredPixel.blank)
  else PixelValue.blank

/-- One `Pixel` at an active column of an active line, nothing elsewhere (spec 44_timing_sync.md R220). -/
def emitPixel (s : State) : State :=
  if s.pix.line < activeLines s.cfg s.pix ∧ s.pix.col < activeWidth s.pix then emit (.pixel (pixelHere s)) s
  else s

/-- The vblank event, if this is its position (spec 44_timing_sync.md R209, R210). -/
def tickEvent (s : State) : State := if atVblank s then vblankEvent s else s

/-- The line arm, at column 0 of every line (spec 44_timing_sync.md R209, 46_dma_chain.md R247). -/
def tickArm (underrun : Bool) (s : State) : State := if s.pix.col = 0 then armLine underrun s else s

/-- `tick`, one period of the pixel clock: event, arm, chain, sync, pixel, advance (spec 44_timing_sync.md
R209). -/
def tick (underrun : Bool) (s : State) : State :=
  let s₁ := emitPixel (syncEdges (endPixelTransfer (tickArm underrun (tickEvent s))))
  s₁.withPix (advancePos s₁.cfg s₁.pix)

end Sys2Proof.Machine
end

