-- ==== Sys2Proof/Machine/Agents.lean ====
section
/-! DEFINITION. One atomic step of one agent, and which agent moves next. -/

namespace Sys2Proof.Machine

/-- One atomic step of one agent (spec 00_scope.md R12, 20_memory.md R71). -/
def perform (e : Event) (s : State) : Result :=
  match e with
  | .strobeFall c => strobeFall c s
  | .strobeRise k => strobeRise k s
  | .blitSubmit cmd => blitSubmit cmd s
  | .hostMemWrite a v => hostMemWrite a v s
  | .bte => bteStep s
  | .tick u => .next (tick u s)
  | .lateRead k => lateRead k s
  | .earlyLookup k ch => earlyLookup k ch s
  | .blitSlice n => blitSlice n s
  | .reset pal => .next (resetEvent pal s)
  | .linkActive b => .next (setLink b s)

/-- A move the environment chooses freely: one of the moves the spec gives the agents in this state; the tick of
SCAN, which is always enabled, stands for every other (spec 00_scope.md R12, 44_timing_sync.md R209;
notes/assumptions/1). -/
def performFree (e : Event) (s : State) : Result :=
  match perform e s with
  | .next t => .next t
  | .fault _ => .next (tick false s)
  | .refused _ => .next (tick false s)

/-- The state without the head of its agenda. -/
def popAgenda (rest : List Event) (s : State) : State := s.withEnv { s.env with agenda := rest }

/-- The next move: the head of the agenda, or a free one when the agenda is empty (notes/assumptions/1). -/
def moveNext (s : State) : Result :=
  match s.env.agenda with
  | e :: rest => perform e (popAgenda rest s)
  | [] => performFree (Config.nextEvent s.env.draws) (nextDraw s)

/-- The state in which the bus engine has accepted a cycle with these sampled lines, and moves next: its strobe
low and the other high, the transaction in DECODE (spec 40_bus_engine.md R120, R122; notes/assumptions/2). -/
def presentCycle (c : Cycle) (s : State) : State :=
  ((s.withInputs { s.inputs with rdLow := decide (c.kind = .rd), wrLow := decide (c.kind = .wr) }).withBus
      { s.bus with bte := .decode (Transaction.ofCycle c) }).withEnv
    { s.env with agenda := .bte :: s.env.agenda }

end Sys2Proof.Machine
end

