-- ==== Sys2Proof/Machine/Step.lean ====
section
/-! DEFINITION. The step of the machine, and the placing of an instruction where the next step runs it. -/

namespace Sys2Proof.Machine

/-- One atomic step of the agent that moves next (spec 20_memory.md R71). -/
def step (s : State) : Host.Outcome State Fault Refusal := moveNext s

/-- The bus cycle of a word numbered as spec/opcode_table.json numbers it, accepted by the bus engine, whose
dispatch is the next step (notes/assumptions/2). -/
def State.withFetchWord (s : State) (nbits w : Nat) : State :=
  presentCycle (cycleOf (tableRaw s.cfg.base nbits w)) s

end Sys2Proof.Machine
end

