-- ==== Sys2Proof/Safety.lean ====
section
/-! DEFINITION. What counts as a sound state: the invariants of the four parts, and runs of bus operations. -/

namespace Sys2Proof.Machine

/-- The memory keeps its canonical form and lies inside its capacity (spec 10_state.md R38, 20_memory.md R63). -/
structure MemInv (s : State) : Prop where
  canonical : s.mem.wf = true
  inside : s.mem.within s.cfg.memCapacity = true

/-- The bus side: the host's strobes do not overlap, a byte is driven only while the read strobe is low, and a
transaction in DECODE whose strobe is low says so; and stays so over a reset, which leaves the inputs alone and
drives nothing (spec 10_state.md R45(b), 40_bus_engine.md R120, 70_reset_and_hazards.md R312). -/
structure BusInv (s : State) : Prop where
  oneStrobe : ¬ (s.inputs.rdLow = true ∧ s.inputs.wrLow = true)
  drivenWhileLow : s.bus.dataOut.isSome = true → s.inputs.rdLow = true
  decodeWhileLow : ∀ t, s.bus.bte = .decode t → t.deasserted = false → s.inputs.low t.kind = true
  resetQuiet : s.cfg.reset.dataOut = none ∧ ∀ t, s.cfg.reset.bte ≠ .decode t

/-- The pixel side: the active descriptor is inside memory, the position inside the frame, the line buffers as long
as a line, and the pixel unit at work only in the active part of an active line (spec 10_state.md R45(c) to (e),
46_dma_chain.md R251, 47_arbiter_blit.md R275). -/
structure FrameOk (cfg : Config) (p : PixelSide) : Prop where
  actFits : p.act.fits cfg
  lineLt : p.line < totalLines cfg p
  colLt : p.col < totalCols cfg p
  curLength : p.curLine.length = activeWidth p
  lastLength : p.lastLine.length = activeWidth p
  pixActive : p.chain = .pix →
    p.line < activeLines cfg p ∧ 0 < p.col ∧ p.col ≤ activeWidth p ∧ p.inVblank = false

/-- The frame is sound, and stays so over a reset: the parameters are legal, `RESET` among them (spec 00_scope.md
R8). -/
structure FrameInv (s : State) : Prop where
  cfgWf : s.cfg.wf = true
  resetOk : ∀ p : PixelSide, FrameOk s.cfg (PixelSide.afterReset s.cfg p)
  frame : FrameOk s.cfg s.pix

/-- The blit engine: absent, it has no state and no error; present, the blit in progress lies inside memory, has
bytes left and no overlap; and stays so over a reset (spec 47_arbiter_blit.md R278, R281, R270). -/
structure BlitInv (s : State) : Prop where
  absent : s.cfg.blitPresent = false →
    s.blit = none ∧ s.faults.fBlit = false ∧ s.cfg.reset.faults.fBlit = false ∧ s.cfg.reset.blit = none
  jobOk : ∀ j, s.blit = some j ∨ s.cfg.reset.blit = some j →
    inBounds s.cfg.memCapacity j.cmd j.pitch = true ∧ j.next < j.cmd.total ∧ illegalOverlap j.cmd j.pitch = false

/-- The number of the position in its frame, counting line by line (spec 44_timing_sync.md R215). -/
def posIndex (cfg : Config) (p : PixelSide) : Nat := p.line * totalCols cfg p + p.col

/-- The effects of bus operations one after the other, stopping at the first that does not answer a next state. The
engine is not put into DECODE for each (notes/assumptions/17). -/
def execAll : List Instr → State → Result
  | [], s => .next s
  | i :: is, s =>
    match exec i s with
    | .next t => execAll is t
    | .fault f => .fault f
    | .refused r => .refused r

/-- The Palette Data writes of whole triplets (spec 42_palette.md R184). -/
def tripletWrites (es : List Rgb) : List Instr :=
  es.flatMap fun e => [.wrPald e.r, .wrPald e.g, .wrPald e.b]

/-- Ticks with these underrun draws, one after the other (spec 44_timing_sync.md R209). -/
def ticks : List Bool → State → State
  | [], s => s
  | u :: us, s => ticks us (tick u s)

end Sys2Proof.Machine
end

