-- ==== Sys2Proof/Certificates/Slice0/Obligations.lean ====
section
/-! DEFINITION. The statements about the model. Each docstring names the rule of spec/ it follows. -/

open Sys2Proof Sys2Proof.Machine

/-! ### Encoding -/

/-- Every well-formed instruction is read back from its RAW word (30_encoding.md R91, R92, R93, R111). -/
def Obligations.DecodeOfEncodeIsTheInstruction : Prop :=
  ∀ (base : BusAddr) (i : Instr), base &&& 0x000F#16 = 0#16 → i.wf base = true →
    decode base (encode base i) = i

/-- Every well-formed instruction is read back from the word of its row of the opcode table (30_encoding.md R112; a
register operation's row leaves the address open, and the model lays it in the window of its default `BASE`, log
entries 2 and 4). -/
def Obligations.TableWordOfEveryInstructionDecodesToIt : Prop :=
  ∀ i : Instr, i.wf Config.default.base = true →
    decodeTableWord (encodeTable i).1 (encodeTable i).2 = some i

/-- Every RAW word decodes to a well-formed instruction, whose RAW word is the same but for the data byte of a
read, which is ignored (30_encoding.md R91, R92). -/
def Obligations.EncodeOfDecodeKeepsEveryBitButReadData : Prop :=
  ∀ (base : BusAddr) (w : RawWord),
    (decode base w).wf base = true ∧
    encode base (decode base w) =
      if w.getLsbD 25 = false ∧ w.extractLsb' 8 16 &&& 0xFFF0#16 = base ∧ w.getLsbD 24 = false
      then w &&& 0x3FFFF00#26 else w

/-- The window decode: AEN, then the window, then the REG word (30_encoding.md R92). -/
def Obligations.WindowDecodeClassifiesEveryRawWord : Prop :=
  ∀ (base : BusAddr) (w : RawWord),
    (w.getLsbD 25 = true →
      decode base w = .ignoreAen (kindOf (w.getLsbD 24)) (w.extractLsb' 8 16) (w.extractLsb' 0 8)) ∧
    (w.getLsbD 25 = false → w.extractLsb' 8 16 &&& 0xFFF0#16 ≠ base →
      decode base w = .ignoreMiss (kindOf (w.getLsbD 24)) (w.extractLsb' 8 16) (w.extractLsb' 0 8)) ∧
    (w.getLsbD 25 = false → w.extractLsb' 8 16 &&& 0xFFF0#16 = base →
      decode base w =
        decodeReg (w.extractLsb' 24 1 ++ (w.extractLsb' 8 16 &&& 0x000F#16).extractLsb' 0 4 ++
          w.extractLsb' 0 8))

/-- Words written out from the encodings: the 32 rows of the opcode table in REG format, each for every data byte, and
a few RAW words with `BASE = 0x300` (30_encoding.md R91, R93, R96, R112; 95_test_vectors.md V1, P4). -/
def Obligations.WrittenOutWordsDecode : Prop :=
  decode 0x300#16 0x1030001#26 = .wrCtrl 0x01 ∧ decode 0x300#16 0x0030C00#26 = .rdDmac ∧
  decode 0x300#16 0x1030FA5#26 = .wrCurs 0xA5 ∧ decode 0x300#16 0x1030356#26 = .wrPald 0x56 ∧
  decode 0x300#16 0x10310FF#26 = .ignoreMiss .wr 0x0310 0xFF ∧
  decode 0x300#16 0x30300FF#26 = .ignoreAen .wr 0x0300 0xFF ∧
  decode 0x300#16 0x0830000#26 = .ignoreMiss .rd 0x8300 0x00 ∧
  ∀ d : Byte,
    decodeReg (0b00000#5 ++ d) = .rdCtrl ∧ decodeReg (0b10000#5 ++ d) = .wrCtrl d ∧
    decodeReg (0b00001#5 ++ d) = .rdStat ∧ decodeReg (0b10001#5 ++ d) = .wrStat d ∧
    decodeReg (0b00010#5 ++ d) = .rdPala ∧ decodeReg (0b10010#5 ++ d) = .wrPala d ∧
    decodeReg (0b00011#5 ++ d) = .rdPald ∧ decodeReg (0b10011#5 ++ d) = .wrPald d ∧
    decodeReg (0b00100#5 ++ d) = .rdFblo ∧ decodeReg (0b10100#5 ++ d) = .wrFblo d ∧
    decodeReg (0b00101#5 ++ d) = .rdFbhi ∧ decodeReg (0b10101#5 ++ d) = .wrFbhi d ∧
    decodeReg (0b00110#5 ++ d) = .rdFbext ∧ decodeReg (0b10110#5 ++ d) = .wrFbext d ∧
    decodeReg (0b00111#5 ++ d) = .rdHrlo ∧ decodeReg (0b10111#5 ++ d) = .wrHrlo d ∧
    decodeReg (0b01000#5 ++ d) = .rdHrhi ∧ decodeReg (0b11000#5 ++ d) = .wrHrhi d ∧
    decodeReg (0b01001#5 ++ d) = .rdVrlo ∧ decodeReg (0b11001#5 ++ d) = .wrVrlo d ∧
    decodeReg (0b01010#5 ++ d) = .rdVrhi ∧ decodeReg (0b11010#5 ++ d) = .wrVrhi d ∧
    decodeReg (0b01011#5 ++ d) = .rdPfmt ∧ decodeReg (0b11011#5 ++ d) = .wrPfmt d ∧
    decodeReg (0b01100#5 ++ d) = .rdDmac ∧ decodeReg (0b11100#5 ++ d) = .wrDmac d ∧
    decodeReg (0b01101#5 ++ d) = .rdLoff ∧ decodeReg (0b11101#5 ++ d) = .wrLoff d ∧
    decodeReg (0b01110#5 ++ d) = .rdSadr ∧ decodeReg (0b11110#5 ++ d) = .wrSadr d ∧
    decodeReg (0b01111#5 ++ d) = .rdCurs ∧ decodeReg (0b11111#5 ++ d) = .wrCurs d

/-! ### The step and the bus engine -/

/-- The head of the agenda is the move that is made; and when the bus engine moves next and its transaction decodes to
a well-formed instruction, the step is that instruction at the state without the move just taken (20_memory.md R71,
40_bus_engine.md R123; the agenda is the model's own form of the interleaving, log entry 1). -/
def Obligations.StepRunsTheDecodedInstruction : Prop :=
  (∀ (s : State) (e : Event) (rest : List Event), s.env.agenda = e :: rest →
    step s = perform e { s with env := { s.env with agenda := rest } }) ∧
  ∀ (s : State) (t : Transaction) (rest : List Event) (i : Instr),
    s.env.agenda = .bte :: rest → s.bus.bte = .decode t →
    decode s.cfg.base (rawBits t.aen t.kind t.addr t.data) = i → i.wf s.cfg.base = true →
      step s = exec i { s with env := { s.env with agenda := rest } }

/-- A falling edge in IDLE is accepted: the transaction record is made and nothing else changes but the level of the
strobe (40_bus_engine.md R122). -/
def Obligations.EdgeInIdleIsAccepted : Prop :=
  ∀ (s : State) (c : Cycle), s.inputs.rdLow = false → s.inputs.wrLow = false → s.bus.bte = .idle →
    perform (.strobeFall c) s = .next
      { s with
        bus :=
          { s.bus with
            bte := .decode { kind := c.kind, addr := c.addr, aen := c.aen, data := c.data, deasserted := false } }
        inputs := { s.inputs with rdLow := decide (c.kind = .rd), wrLow := decide (c.kind = .wr) } }

/-- A falling edge while the engine is busy is dropped and recorded, whatever its lines (40_bus_engine.md R130). -/
def Obligations.EdgeWhileBusyIsDroppedAndRecorded : Prop :=
  ∀ (s : State) (c : Cycle), s.inputs.rdLow = false → s.inputs.wrLow = false → s.bus.bte ≠ .idle →
    perform (.strobeFall c) s = .next
      { s with
        faults := { s.faults with fBus := true, busFaultCount := s.faults.busFaultCount + 1 }
        out := s.out ++ [.faultLog (.protocolTiming .edgeWhileBusy)]
        inputs := { s.inputs with rdLow := decide (c.kind = .rd), wrLow := decide (c.kind = .wr) } }

/-- A rise that overtakes the dispatch of its own transaction is noted in the transaction and recorded; the read
strobe's rise releases the data lines and the host takes the byte that was driven, if one was; nothing else changes
(40_bus_engine.md R127, R128, R133; the byte taken is kept in the model's own field, and is a free value when nothing
is driven, log entry 10). -/
def Obligations.RiseBeforeDispatchIsRecorded : Prop :=
  ∀ (s : State) (t : Transaction), s.inputs.low t.kind = true → s.bus.bte = .decode t →
    let f := { s.faults with fBus := true, busFaultCount := s.faults.busFaultCount + 1 }
    let o := s.out ++ [.faultLog (.protocolTiming .missedDeadline)]
    (t.kind = .rd →
      ∃ v n, (∀ w, s.bus.dataOut = some w → v = w ∧ n = s.env.draws) ∧
        (s.bus.dataOut = none → v = Config.undrivenByte s.env.draws ∧ n = s.env.draws + 1) ∧
        perform (.strobeRise .rd) s = .next
          { s with
            bus := { bte := .decode { t with deasserted := true }, dataOut := none }
            inputs := { s.inputs with rdLow := false }
            faults := f
            out := o
            env := { s.env with hostRead := some v, draws := n } }) ∧
    (t.kind = .wr →
      perform (.strobeRise .wr) s = .next
        { s with
          bus := { s.bus with bte := .decode { t with deasserted := true } }
          inputs := { s.inputs with wrLow := false }
          faults := f
          out := o })

/-- The other rises: the read strobe's rise releases the data lines and the host takes the byte that was driven, if
one was; the write strobe's rise does nothing; neither moves the engine or records a fault (40_bus_engine.md R128,
R133; the byte taken is kept in the model's own field, and is a free value when nothing is driven, log entry 10). -/
def Obligations.RiseReleasesTheDataLines : Prop :=
  ∀ s : State,
    (s.inputs.rdLow = true → (∀ t, s.bus.bte = .decode t → t.kind ≠ .rd) →
      ∃ v n, (∀ w, s.bus.dataOut = some w → v = w ∧ n = s.env.draws) ∧
        (s.bus.dataOut = none → v = Config.undrivenByte s.env.draws ∧ n = s.env.draws + 1) ∧
        perform (.strobeRise .rd) s = .next
          { s with
            bus := { s.bus with dataOut := none }
            inputs := { s.inputs with rdLow := false }
            env := { s.env with hostRead := some v, draws := n } }) ∧
    (s.inputs.wrLow = true → (∀ t, s.bus.bte = .decode t → t.kind ≠ .wr) →
      perform (.strobeRise .wr) s = .next { s with inputs := { s.inputs with wrLow := false } })

/-- The engine retires from the three states after an effect, and nothing else changes: the data lines stay as they
are (40_bus_engine.md R129). -/
def Obligations.RetireReturnsToIdle : Prop :=
  ∀ (s : State) (t : Transaction),
    (s.bus.bte = .dispatchRead t ∨ s.bus.bte = .dispatchWrite t ∨ s.bus.bte = .ignore t) →
      perform .bte s = .next { s with bus := { s.bus with bte := .idle } }

/-- A full cycle outside the sixteen addresses from `BASE`, or with AEN asserted, from IDLE with nothing driven, leaves
everything but the host's agenda and what the host read as it was (40_bus_engine.md R124, 20_memory.md R61,
90_conflicts.md C8; the agenda and the field for what the host read are the model's own, log entries 1 and 10). -/
def Obligations.IgnoredFullCycleChangesNothing : Prop :=
  ∀ (s : State) (c : Cycle) (rest : List Event),
    s.env.agenda = .strobeFall c :: .bte :: .bte :: .strobeRise c.kind :: rest →
    s.inputs.rdLow = false → s.inputs.wrLow = false → s.bus.bte = .idle → s.bus.dataOut = none →
    s.cfg.base &&& 0x000F#16 = 0#16 →
    (c.aen = true ∨ c.addr.toNat < s.cfg.base.toNat ∨ s.cfg.base.toNat + 15 < c.addr.toNat) →
      ∃ v n, Host.Core.run Sys2Proof.core 4 s =
        .next { s with env := { s.env with agenda := rest, hostRead := v, draws := n } }

/-- A full read cycle of Control gives the host the stored cell and changes nothing else (40_bus_engine.md R123,
R125, R128, R133; 41_register_ops.md R140; the agenda and the field for what the host read are the model's own, log
entries 1 and 10). -/
def Obligations.FullReadCycleDeliversControl : Prop :=
  ∀ (s : State) (d : Byte) (rest : List Event),
    s.env.agenda =
      .strobeFall { aen := false, kind := .rd, addr := s.cfg.base, data := d } :: .bte :: .strobeRise .rd ::
        .bte :: rest →
    s.inputs.rdLow = false → s.inputs.wrLow = false → s.bus.bte = .idle → s.bus.dataOut = none →
    s.cfg.base &&& 0x000F#16 = 0#16 →
      Host.Core.run Sys2Proof.core 4 s =
        .next { s with env := { s.env with agenda := rest, hostRead := some s.regs.ctrl } }

/-! ### The register operations: each answers a next state, and which -/

/-- Control and Cursor Control read as stored; the byte is driven unless the strobe already rose
(41_register_ops.md R140, R170; 40_bus_engine.md R125). -/
def Obligations.StoredCellsReadAsStored : Prop :=
  ∀ (s : State) (t : Transaction), s.bus.bte = .decode t →
    exec .rdCtrl s = .next
      { s with
        bus := { bte := .dispatchRead t, dataOut := if t.deasserted then s.bus.dataOut else some s.regs.ctrl } } ∧
    exec .rdCurs s = .next
      { s with
        bus := { bte := .dispatchRead t, dataOut := if t.deasserted then s.bus.dataOut else some s.regs.curs } }

/-- The two computed reads, from the state as it stands at the dispatch. Status: the live sync outputs, the Control
enable and the link input, bits 7:4 zero; DMA Control: the two stored enables, chain active and blit busy, the four
sticky flags, bits 3 and 7 always 0 without the blit engine (41_register_ops.md R142, R164; 47_arbiter_blit.md R278;
30_encoding.md R99, R105). The instant of the snapshot is the model's choice among those that 20_memory.md R76 allows
(log entry 19). -/
def Obligations.ComputedReadsShowLiveState : Prop :=
  ∀ (s : State) (t : Transaction), s.bus.bte = .decode t →
    (∃ v : Byte,
      exec .rdStat s = .next
        { s with bus := { bte := .dispatchRead t, dataOut := if t.deasserted then s.bus.dataOut else some v } } ∧
      v.getLsbD 0 = s.pix.vsyncOut ∧ v.getLsbD 1 = s.pix.hsyncOut ∧ v.getLsbD 2 = s.regs.ctrl.getLsbD 0 ∧
      v.getLsbD 3 = s.inputs.linkActiveIn ∧ v.extractLsb' 4 4 = 0#4) ∧
    (∃ v : Byte,
      exec .rdDmac s = .next
        { s with bus := { bte := .dispatchRead t, dataOut := if t.deasserted then s.bus.dataOut else some v } } ∧
      v.getLsbD 0 = s.regs.chainEn ∧ v.getLsbD 1 = s.regs.blitEn ∧
      v.getLsbD 2 = decide (s.pix.chain ≠ .stopped) ∧ v.getLsbD 3 = (s.cfg.blitPresent && s.blit.isSome) ∧
      v.getLsbD 4 = s.faults.fCfg ∧ v.getLsbD 5 = s.faults.fUnderrun ∧ v.getLsbD 6 = s.faults.fBus ∧
      v.getLsbD 7 = (s.cfg.blitPresent && s.faults.fBlit))

/-- A read of a write-only offset drives `WO_READ` of that offset and the register side, the same byte whenever the
register side is the same, and changes nothing else (41_register_ops.md R139, R144 to R168). -/
def Obligations.WriteOnlyOffsetsReadAsWoRead : Prop :=
  ∀ (s : State) (t : Transaction), s.bus.bte = .decode t →
    ∀ q ∈ [(Instr.rdPala, 0x2#4), (.rdPald, 0x3#4), (.rdFblo, 0x4#4), (.rdFbhi, 0x5#4), (.rdFbext, 0x6#4),
        (.rdHrlo, 0x7#4), (.rdHrhi, 0x8#4), (.rdVrlo, 0x9#4), (.rdVrhi, 0xA#4), (.rdPfmt, 0xB#4),
        (.rdLoff, 0xD#4), (.rdSadr, 0xE#4)],
      exec q.1 s = .next
        { s with
          bus :=
            { bte := .dispatchRead t
              dataOut := if t.deasserted then s.bus.dataOut else some (Config.woRead q.2 s.regs) } }

/-- The writes of the plain registers. Control stores all eight bits, bit 1 requests a restart and its absence cancels
none; DMA Control stores bits 1:0 and clears no sticky flag; Cursor Control stores the byte; Status ignores it
(41_register_ops.md R141, R143, R165, R171). -/
def Obligations.PlainWritesStoreTheirBits : Prop :=
  ∀ (s : State) (t : Transaction) (d : Byte), s.bus.bte = .decode t →
    exec (.wrCtrl d) s = .next
      { s with
        regs :=
          { s.regs with
            ctrl := d
            timingResetPending := if d.getLsbD 1 = true then true else s.regs.timingResetPending }
        bus := { s.bus with bte := .dispatchWrite t } } ∧
    exec (.wrDmac d) s = .next
      { s with
        regs := { s.regs with chainEn := d.getLsbD 0, blitEn := d.getLsbD 1 }
        bus := { s.bus with bte := .dispatchWrite t } } ∧
    exec (.wrCurs d) s = .next
      { s with regs := { s.regs with curs := d }, bus := { s.bus with bte := .dispatchWrite t } } ∧
    exec (.wrStat d) s = .next { s with bus := { s.bus with bte := .dispatchWrite t } }

/-- A Palette Address write sets the cursor to the index and channel R, and no entry changes (42_palette.md
R180). -/
def Obligations.PaletteAddressWriteResetsTheCursor : Prop :=
  ∀ (s : State) (t : Transaction) (d : Byte), s.bus.bte = .decode t →
    exec (.wrPala d) s = .next
      { s with
        regs := { s.regs with palIndex := d, palChannel := .red }
        bus := { s.bus with bte := .dispatchWrite t } }

/-- A Palette Data write stores the byte in the cursor's channel and advances the cursor, the index by one modulo
256 after channel 2 (42_palette.md R181). -/
def Obligations.PaletteDataWriteFillsTheCursorsChannel : Prop :=
  ∀ (s : State) (t : Transaction) (d : Byte), s.bus.bte = .decode t →
    (s.regs.palChannel = .red →
      exec (.wrPald d) s = .next
        { s with
          regs :=
            { s.regs with
              pal := s.regs.pal.set s.regs.palIndex.toNat
                { s.regs.pal.get s.regs.palIndex.toFin with r := d } s.regs.palIndex.isLt
              palChannel := .green }
          bus := { s.bus with bte := .dispatchWrite t } }) ∧
    (s.regs.palChannel = .green →
      exec (.wrPald d) s = .next
        { s with
          regs :=
            { s.regs with
              pal := s.regs.pal.set s.regs.palIndex.toNat
                { s.regs.pal.get s.regs.palIndex.toFin with g := d } s.regs.palIndex.isLt
              palChannel := .blue }
          bus := { s.bus with bte := .dispatchWrite t } }) ∧
    (s.regs.palChannel = .blue →
      exec (.wrPald d) s = .next
        { s with
          regs :=
            { s.regs with
              pal := s.regs.pal.set s.regs.palIndex.toNat
                { s.regs.pal.get s.regs.palIndex.toFin with b := d } s.regs.palIndex.isLt
              palIndex := BitVec.ofNat 8 ((s.regs.palIndex.toNat + 1) % 256)
              palChannel := .red }
          bus := { s.bus with bte := .dispatchWrite t } })

/-- An address-class write, with its REG word, stores its one shadow byte and changes nothing else: not the active
descriptor, not the geometry, no flag (41_register_ops.md R149 to R163, R167, R169). -/
def Obligations.AddressClassWritesStoreOneShadowByte : Prop :=
  ∀ (s : State) (t : Transaction) (d : Byte), s.bus.bte = .decode t →
    ∀ q ∈ [(0b10100#5, Instr.wrFblo d, { s.regs.sh with fbLo := d }),
        (0b10101, .wrFbhi d, { s.regs.sh with fbHi := d }), (0b10110, .wrFbext d, { s.regs.sh with fbExt := d }),
        (0b10111, .wrHrlo d, { s.regs.sh with hresLo := d }), (0b11000, .wrHrhi d, { s.regs.sh with hresHi := d }),
        (0b11001, .wrVrlo d, { s.regs.sh with vresLo := d }), (0b11010, .wrVrhi d, { s.regs.sh with vresHi := d }),
        (0b11011, .wrPfmt d, { s.regs.sh with pfmt := d }), (0b11101, .wrLoff d, { s.regs.sh with loff := d }),
        (0b11110, .wrSadr d, { s.regs.sh with sadr := d })],
      decodeReg (q.1 ++ d) = q.2.1 ∧
      exec q.2.1 s = .next
        { s with regs := { s.regs with sh := q.2.2 }, bus := { s.bus with bte := .dispatchWrite t } }

/-- An ignored cycle drives nothing and changes nothing; only the engine moves (40_bus_engine.md R124). -/
def Obligations.IgnoredCyclesMoveOnlyTheEngine : Prop :=
  ∀ (s : State) (t : Transaction) (k : Kind) (a : BusAddr) (d : Byte), s.bus.bte = .decode t →
    exec (.ignoreAen k a d) s = .next { s with bus := { s.bus with bte := .ignore t } } ∧
    exec (.ignoreMiss k a d) s = .next { s with bus := { s.bus with bte := .ignore t } }

/-- Every bus operation completes in every state, and touches the register side and the bus engine only: no byte
of memory, no pixel-side state, no flag, no output (20_memory.md R82, 41_register_ops.md R172, 60_exceptions.md
R285). A state outside DECODE is the model's addition: no operation of the block is performed there (log entry 17). -/
def Obligations.BusOperationsTouchOnlyRegistersAndBus : Prop :=
  ∀ (i : Instr) (s : State), ∃ (r : RegSide) (b : Bus),
    exec i s = .next { s with regs := r, bus := b } ∧
    (∀ k g d, i.operation = some (k, g, d) → k = .rd → r = s.regs) ∧
    (i.operation = none → r = s.regs ∧ b.dataOut = s.bus.dataOut) ∧
    (∀ k g d, i.operation = some (k, g, d) → k = .wr → b.dataOut = s.bus.dataOut)

/-! ### The palette protocol -/

/-- The two laws of the protocol. Triplet law: an index and three bytes fill the entry and advance the cursor to the
next. Wrap law: 256 full triplets from any cursor at channel R fill each of the 256 entries once, with its triplet, and
return the cursor to its starting index (42_palette.md R184). The effects are performed one after the other, the engine
not put into DECODE for each, which is the model's choice (log entry 17). -/
def Obligations.TripletAndWrapLaws : Prop :=
  (∀ (s : State) (i r g b : Byte), ∃ t,
    execAll [.wrPala i, .wrPald r, .wrPald g, .wrPald b] s = .next t ∧
    t.regs.pal.get i.toFin = { r := r, g := g, b := b } ∧
    (∀ j : Byte, j ≠ i → t.regs.pal.get j.toFin = s.regs.pal.get j.toFin) ∧
    t.regs.palIndex = BitVec.ofNat 8 ((i.toNat + 1) % 256) ∧ t.regs.palChannel = .red) ∧
  ∀ (s : State) (es : List Rgb), es.length = 256 → s.regs.palChannel = .red → ∃ t,
    execAll (tripletWrites es) s = .next t ∧
    t.regs.palIndex = s.regs.palIndex ∧ t.regs.palChannel = .red ∧
    ∀ k : Nat, k < 256 →
      es[k]? = some (t.regs.pal.get (s.regs.palIndex + BitVec.ofNat 8 k).toFin)

/-- The cursor counts uninterrupted data writes since the last index write, and since any cursor at channel R, such as
reset leaves: the channel modulo 3, the index by completed triplets modulo 256 (10_state.md R29). The effects are
performed one after the other, the engine not put into DECODE for each, which is the model's choice (log entry 17);
that no other event moves the cursor is said by `OnlyPaletteDataWritesChangeTheTable`. -/
def Obligations.PaletteCursorCountsTheDataWrites : Prop :=
  ∀ (s : State) (i : Byte) (ds : List Byte),
    (∃ t, execAll (.wrPala i :: ds.map .wrPald) s = .next t ∧
      t.regs.palIndex = BitVec.ofNat 8 ((i.toNat + ds.length / 3) % 256) ∧
      (t.regs.palChannel = .red ↔ ds.length % 3 = 0) ∧
      (t.regs.palChannel = .green ↔ ds.length % 3 = 1) ∧
      (t.regs.palChannel = .blue ↔ ds.length % 3 = 2)) ∧
    (s.regs.palChannel = .red → ∃ t, execAll (ds.map .wrPald) s = .next t ∧
      t.regs.palIndex = BitVec.ofNat 8 ((s.regs.palIndex.toNat + ds.length / 3) % 256) ∧
      (t.regs.palChannel = .red ↔ ds.length % 3 = 0) ∧
      (t.regs.palChannel = .green ↔ ds.length % 3 = 1) ∧
      (t.regs.palChannel = .blue ↔ ds.length % 3 = 2))

/-- No step but a dispatched Palette Data write and a reset changes the palette table; no step but these and a
dispatched Palette Address write moves the cursor (42_palette.md R186; 10_state.md R28, R29). -/
def Obligations.OnlyPaletteDataWritesChangeTheTable : Prop :=
  ∀ (e : Event) (s t : State), perform e s = .next t → (∀ p, e ≠ .reset p) →
    (t.regs.pal ≠ s.regs.pal →
      e = .bte ∧ ∃ tr d, s.bus.bte = .decode tr ∧
        decode s.cfg.base (rawBits tr.aen tr.kind tr.addr tr.data) = .wrPald d) ∧
    (t.regs.palIndex ≠ s.regs.palIndex ∨ t.regs.palChannel ≠ s.regs.palChannel →
      e = .bte ∧ ∃ tr d, s.bus.bte = .decode tr ∧
        (decode s.cfg.base (rawBits tr.aen tr.kind tr.addr tr.data) = .wrPald d ∨
          decode s.cfg.base (rawBits tr.aen tr.kind tr.addr tr.data) = .wrPala d))

/-! ### resolve and the latch -/

/-- `resolve` in full (43_fb_resolve.md R199). -/
def Obligations.ResolveInFull : Prop :=
  ∀ (cfg : Config) (sh : Shadow),
    (4 < sh.pfmt.toNat → resolve cfg sh = none) ∧
    ∀ q ∈ [(0, PixelFormat.bpp1, 1), (1, .bpp4, 4), (2, .bpp8, 8), (3, .bpp16, 16), (4, .bpp24, 24)],
      sh.pfmt.toNat = q.1 →
        let base : BitVec 24 := sh.fbExt ++ sh.fbHi ++ sh.fbLo
        let width : BitVec 16 := sh.hresHi ++ sh.hresLo
        let height : BitVec 16 := sh.vresHi ++ sh.vresLo
        let stride := if sh.loff = 0 then (width.toNat * q.2.2 + 7) / 8 else sh.loff.toNat * cfg.lineOffsetUnit
        resolve cfg sh =
          if cfg.memCapacity < base.toNat + height.toNat * stride then none
          else
            some { base := base, start := sh.sadr, stride := stride, width := width, height := height, fmt := q.2.1 }

/-- Between two vblank events nothing but a reset changes the active descriptor or the active mode: no event that is
neither a reset nor the tick of the vblank event does (43_fb_resolve.md R200, 20_memory.md R73). -/
def Obligations.ActiveDescriptorChangesOnlyAtVblank : Prop :=
  ∀ (e : Event) (s t : State), perform e s = .next t → (∀ p, e ≠ .reset p) →
    (∀ u, e = .tick u → ¬ (s.pix.col = 0 ∧ s.pix.line = activeLines s.cfg s.pix)) →
      t.pix.act = s.pix.act ∧ t.pix.actMode = s.pix.actMode

/-- The tick of column 0 of the first vertical-blank line latches: the mode always, the descriptor if the shadow
bytes resolve, else the fault; `Vblank` and the enabled `Irq` follow; the shadow bytes stay (43_fb_resolve.md
R197, R198; 44_timing_sync.md R212). That the log entry comes before `Vblank` is the model's reading of two rules that
differ (log entry 18). -/
def Obligations.VblankTickLatchesTheShadow : Prop :=
  ∀ (s : State) (u : Bool), s.pix.col = 0 → s.pix.line = activeLines s.cfg s.pix →
    (tick u s).pix.actMode = s.regs.ctrl.extractLsb' 2 3 ∧ (tick u s).regs.sh = s.regs.sh ∧
    (tick u s).regs.timingResetPending = false ∧
    (∀ d, resolve s.cfg s.regs.sh = some d →
      (tick u s).pix.act = d ∧ (tick u s).faults.fCfg = s.faults.fCfg ∧
      s.out ++ .vblank :: (if s.regs.ctrl.getLsbD 5 then [.irq] else []) <+: (tick u s).out) ∧
    (resolve s.cfg s.regs.sh = none →
      (tick u s).pix.act = s.pix.act ∧ (tick u s).faults.fCfg = true ∧
      s.out ++ .faultLog (.outOfRangeConfiguration s.regs.sh) :: .vblank ::
        (if s.regs.ctrl.getLsbD 5 then [.irq] else []) <+: (tick u s).out)

/-- The position after the vblank event: the first vertical-blank line of the new geometry, or line 0 when a pending
restart is honoured at the frame start; the palette cursor is left alone (44_timing_sync.md R213, R214). -/
def Obligations.VblankEventPlacesThePosition : Prop :=
  ∀ s : State,
    (vblankEvent s).pix.col = 0 ∧ (vblankEvent s).regs.timingResetPending = false ∧
    (s.regs.timingResetPending = true → s.cfg.restartPos = .frameStart → (vblankEvent s).pix.line = 0) ∧
    (s.regs.timingResetPending = false ∨ s.cfg.restartPos = .vblankStart →
      (vblankEvent s).pix.line = activeLines (vblankEvent s).cfg (vblankEvent s).pix) ∧
    (vblankEvent s).pix.lastLine =
      List.replicate (vblankEvent s).pix.act.width.toNat (.direct (.rgb888 0 0 0)) ∧
    (vblankEvent s).regs = { s.regs with timingResetPending := false }

/-! ### The tick -/

/-- A tick advances the position it processed by one, column first, and wraps at the frame's end; the counters stay
inside the frame. The position processed is the one the vblank event places, if this is its tick (44_timing_sync.md
R215). -/
def Obligations.TickAdvancesThePositionModuloTheFrame : Prop :=
  ∀ (s : State) (u : Bool), FrameInv s →
    let p := (if s.pix.col = 0 ∧ s.pix.line = activeLines s.cfg s.pix then vblankEvent s else s).pix
    posIndex s.cfg (tick u s).pix =
      (posIndex s.cfg p + 1) % (totalCols s.cfg p * totalLines s.cfg p) ∧
    (tick u s).pix.line < totalLines s.cfg p ∧ (tick u s).pix.col < totalCols s.cfg p

/-- The sync outputs and the blanking indication after a tick are those of the position it processed, which is the one
the vblank event places, if this is its tick (44_timing_sync.md R216, R217, R218). -/
def Obligations.SyncOutputsFollowThePosition : Prop :=
  ∀ (s : State) (u : Bool),
    let p := (if s.pix.col = 0 ∧ s.pix.line = activeLines s.cfg s.pix then vblankEvent s else s).pix
    let T := s.cfg.timing.get p.actMode.toFin
    let AL := p.act.height.toNat * T.lineRepeat
    let W := p.act.width.toNat
    ((tick u s).pix.vsyncOut = true ↔ AL + T.vFront ≤ p.line ∧ p.line < AL + T.vFront + T.vSync) ∧
    ((tick u s).pix.hsyncOut = true ↔ W + T.hFront ≤ p.col ∧ p.col < W + T.hFront + T.hSync) ∧
    ((tick u s).pix.inVblank = true ↔ AL ≤ p.line)

/-- What a tick emits. Outside column 0: the sync edges, vertical first, and at an active position one pixel, gated by
enable-output and looked up at this tick, if no channel of it was looked up ahead; nothing else, so in the blanking the
edges only. At column 0, after the vblank event, if there is one, and the line arm: the same, from the state they leave
(44_timing_sync.md R220, R221; 45_pixel_format.md R239). -/
def Obligations.TickEmitsEdgesAndPixel : Prop :=
  ∀ (s : State) (u : Bool), FrameInv s →
    (s.pix.col ≠ 0 → ∃ px : List OutEvent,
      (tick u s).out =
        s.out ++
        (if (tick u s).pix.vsyncOut = s.pix.vsyncOut then [] else [.vsyncEdge (tick u s).pix.vsyncOut]) ++
        (if (tick u s).pix.hsyncOut = s.pix.hsyncOut then [] else [.hsyncEdge (tick u s).pix.hsyncOut]) ++ px ∧
      (¬ (s.pix.line < activeLines s.cfg s.pix ∧ s.pix.col < s.pix.act.width.toNat) → px = []) ∧
      (s.pix.line < activeLines s.cfg s.pix → s.pix.col < s.pix.act.width.toNat →
        (s.regs.ctrl.getLsbD 0 = false → px = [.pixel (.rgb888 0 0 0)]) ∧
        (s.regs.ctrl.getLsbD 0 = true → (∀ q ∈ s.env.looked, q.1 ≠ s.pix.col) →
          ∃ sp, s.pix.curLine[s.pix.col]? = some sp ∧
            px = [.pixel (match sp with
              | .direct v => v
              | .index i =>
                .rgb888 (s.regs.pal.get i.toFin).r (s.regs.pal.get i.toFin).g (s.regs.pal.get i.toFin).b)]))) ∧
    (s.pix.col = 0 →
      let a := armLine u (if s.pix.line = activeLines s.cfg s.pix then vblankEvent s else s)
      ∃ px : List OutEvent,
      (tick u s).out =
        a.out ++
        (if (tick u s).pix.vsyncOut = s.pix.vsyncOut then [] else [.vsyncEdge (tick u s).pix.vsyncOut]) ++
        (if (tick u s).pix.hsyncOut = s.pix.hsyncOut then [] else [.hsyncEdge (tick u s).pix.hsyncOut]) ++ px ∧
      (¬ (a.pix.line < activeLines a.cfg a.pix ∧ 0 < a.pix.act.width.toNat) → px = []) ∧
      (a.pix.line < activeLines a.cfg a.pix → 0 < a.pix.act.width.toNat →
        (s.regs.ctrl.getLsbD 0 = false → px = [.pixel (.rgb888 0 0 0)]) ∧
        (s.regs.ctrl.getLsbD 0 = true →
          ∃ sp, a.pix.curLine[0]? = some sp ∧
            px = [.pixel (match sp with
              | .direct v => v
              | .index i =>
                .rgb888 (s.regs.pal.get i.toFin).r (s.regs.pal.get i.toFin).g (s.regs.pal.get i.toFin).b)])))

/-- What a tick leaves alone: the parameters, the bus engine, memory, the blit in progress and the inputs; of the
register side everything but the pending restart, which only the vblank event clears; of the fault record the bus and
blit parts; of the model's own fields the agenda, what the host took and the last blit answer (10_state.md R20,
20_memory.md R72, R82). -/
def Obligations.TickTouchesOnlyThePixelSide : Prop :=
  ∀ (s : State) (u : Bool),
    tick u s =
      { s with
        regs :=
          { s.regs with
            timingResetPending :=
              if s.pix.col = 0 ∧ s.pix.line = activeLines s.cfg s.pix then false else s.regs.timingResetPending }
        pix := (tick u s).pix
        faults :=
          { s.faults with
            fCfg := (tick u s).faults.fCfg
            fUnderrun := (tick u s).faults.fUnderrun
            underrunCount := (tick u s).faults.underrunCount }
        out := (tick u s).out
        env :=
          { s.env with
            draws := (tick u s).env.draws
            lineBytes := (tick u s).env.lineBytes
            looked := (tick u s).env.looked } }

/-- The timing generator free-runs: neither enable-output, nor any Control bit but the mode, nor the chain enable
changes the position, the sync outputs, the active descriptor or the latch's flag (44_timing_sync.md R219). -/
def Obligations.EnablesDoNotStopTheTimingGenerator : Prop :=
  ∀ (s : State) (u v : Bool) (c : Byte) (ce : Bool), c.extractLsb' 2 3 = s.regs.ctrl.extractLsb' 2 3 →
    let s' : State := { s with regs := { s.regs with ctrl := c, chainEn := ce } }
    (tick v s').pix.line = (tick u s).pix.line ∧ (tick v s').pix.col = (tick u s).pix.col ∧
    (tick v s').pix.vsyncOut = (tick u s).pix.vsyncOut ∧ (tick v s').pix.hsyncOut = (tick u s).pix.hsyncOut ∧
    (tick v s').pix.inVblank = (tick u s).pix.inVblank ∧ (tick v s').pix.act = (tick u s).pix.act ∧
    (tick v s').faults.fCfg = (tick u s).faults.fCfg

/-- Inside a line the register side has no effect on the chain, the fetch or the line buffers: the enables take hold
at a line arm only, and the underrun draw is not looked at (46_dma_chain.md R247, R256). -/
def Obligations.EnablesTakeHoldOnlyAtALineArm : Prop :=
  ∀ (s : State) (u v : Bool) (r : RegSide), s.pix.col ≠ 0 →
    (tick v { s with regs := r }).pix = (tick u s).pix ∧
    (tick u s).pix.curLine = s.pix.curLine ∧ (tick u s).pix.lastLine = s.pix.lastLine ∧
    (tick u s).pix.fetchOn = s.pix.fetchOn

/-- The line arm sets the chain and `fetch_on` from the enables and the line (46_dma_chain.md R247). -/
def Obligations.LineArmSetsTheChain : Prop :=
  ∀ (s : State) (u : Bool),
    (s.regs.chainEn = false → (armLine u s).pix.chain = .stopped ∧ (armLine u s).pix.fetchOn = false) ∧
    (s.regs.chainEn = true → s.pix.line < activeLines s.cfg s.pix → 0 < s.pix.act.width.toNat →
      (armLine u s).pix.chain = .pix ∧ (armLine u s).pix.fetchOn = s.regs.ctrl.getLsbD 0) ∧
    (s.regs.chainEn = true →
      ¬ (s.pix.line < activeLines s.cfg s.pix ∧ 0 < s.pix.act.width.toNat) →
      (armLine u s).pix.chain = .blk ∧ (armLine u s).pix.fetchOn = false) ∧
    ((armLine u s).pix.fetchOn = false →
      (armLine u s).pix.curLine = List.replicate s.pix.act.width.toNat (.direct (.rgb888 0 0 0)) ∧
      (armLine u s).faults = s.faults ∧ (armLine u s).out = s.out)

/-- An underrun replaces the line by the last valid line, is counted and logged, and changes nothing else: the chain
is `PIX` for the line as usual, the position and the sync outputs are those of the same tick without it, the active
descriptor and memory stay (46_dma_chain.md R254). -/
def Obligations.UnderrunRepeatsTheLastValidLine : Prop :=
  ∀ s : State, s.pix.col = 0 → s.pix.line < activeLines s.cfg s.pix → 0 < s.pix.act.width.toNat →
    s.regs.chainEn = true → s.regs.ctrl.getLsbD 0 = true →
      (tick true s).pix =
        { (tick false s).pix with curLine := s.pix.lastLine, lastLine := s.pix.lastLine } ∧
      (tick true s).pix.chain = .pix ∧ (tick true s).pix.act = s.pix.act ∧ (tick true s).mem = s.mem ∧
      (tick true s).faults =
        { s.faults with fUnderrun := true, underrunCount := s.faults.underrunCount + 1 } ∧
      s.out ++ [.faultLog (.scanoutUnderrun s.pix.line)] <+: (tick true s).out

/-- A fetched line is `unpack` of the bytes of its source range, in every format: as many bytes as the line occupies,
from `base + start + (line div LR) * stride` on, each byte inside the memory as it stands; in 8bpp pixel `k` is byte
`k` (46_dma_chain.md R246, R248, R250; 45_pixel_format.md R235). -/
def Obligations.FetchedLineShowsMemory : Prop :=
  ∀ s : State, s.pix.col = 0 → s.pix.line < activeLines s.cfg s.pix → 0 < s.pix.act.width.toNat →
    s.regs.chainEn = true → s.regs.ctrl.getLsbD 0 = true →
    let a := s.pix.act.base.toNat + s.pix.act.start.toNat * s.cfg.startAddressUnit +
      s.pix.line / (s.cfg.timing.get s.pix.actMode.toFin).lineRepeat * s.pix.act.stride
    ∃ bytes : List Byte,
      bytes.length = (s.pix.act.width.toNat * s.pix.act.fmt.bits + 7) / 8 ∧
      (∀ k, k < bytes.length → a + k < s.cfg.memCapacity → bytes[k]? = some (s.mem.read (a + k))) ∧
      (tick false s).pix.curLine = unpack s.cfg.bitOrder bytes s.pix.act.fmt s.pix.act.width.toNat ∧
      (tick false s).pix.lastLine = (tick false s).pix.curLine ∧
      (s.pix.act.fmt = .bpp8 → ∀ k, k < s.pix.act.width.toNat → a + k < s.cfg.memCapacity →
        (tick false s).pix.curLine[k]? = some (.index (s.mem.read (a + k))))

/-- Inside the window of a byte, from the arm of its line to the emission of the first pixel that depends on it, the
byte may be read again, and the line is then what it is with the byte as memory has it now; outside the window there is
no such read (46_dma_chain.md R249, R250; the model's form of the window, log entry 19). -/
def Obligations.LateReadTakesTheByteAsItStands : Prop :=
  ∀ (s : State) (bytes : List Byte) (k : Nat), s.env.lineBytes = some bytes →
    (k < bytes.length → 0 < s.pix.col → s.pix.col ≤ firstPixel s.pix.act.fmt k →
      let a := s.pix.act.base.toNat + s.pix.act.start.toNat * s.cfg.startAddressUnit +
        s.pix.line / (s.cfg.timing.get s.pix.actMode.toFin).lineRepeat * s.pix.act.stride + k
      ∃ (b : Byte) (e : Env), (a < s.cfg.memCapacity → b = s.mem.read a) ∧
        perform (.lateRead k) s = .next
          { s with
            pix :=
              { s.pix with
                curLine := unpack s.cfg.bitOrder (bytes.set k b) s.pix.act.fmt s.pix.act.width.toNat
                lastLine := unpack s.cfg.bitOrder (bytes.set k b) s.pix.act.fmt s.pix.act.width.toNat }
            env := e }) ∧
    (¬ (k < bytes.length ∧ 0 < s.pix.col ∧ s.pix.col ≤ firstPixel s.pix.act.fmt k) →
      perform (.lateRead k) s = .refused .notEnabled)

/-- A channel of a pixel looked up ahead is the byte the palette had then, in the pixel that the tick of its column
emits, whatever the palette is by then; the channels of that pixel and the pixels that were not looked up ahead are
looked up when they are emitted (45_pixel_format.md R239, 42_palette.md R185; the model's form of the window, log
entry 19). -/
def Obligations.EarlyLookupFixesOneChannelOfOnePixel : Prop :=
  ∀ (s : State) (k : Nat) (ch : Channel) (i : Byte), 0 < s.pix.col → s.pix.col ≤ k →
    s.pix.curLine[k]? = some (.index i) →
      ∃ t, perform (.earlyLookup k ch) s = .next t ∧ t = { s with env := t.env } ∧
        ∀ (t' : State) (u : Bool) (j : Nat) (i' : Byte), t'.env.looked = t.env.looked →
          0 < j → t'.pix.col = j → t'.pix.curLine[j]? = some (.index i') →
          t'.pix.line < activeLines t'.cfg t'.pix → j < t'.pix.act.width.toNat → t'.regs.ctrl.getLsbD 0 = true →
            ∃ c : Channel → Byte,
              (tick u t').out.getLast? = some (.pixel (.rgb888 (c .red) (c .green) (c .blue))) ∧
              (j = k → c ch = (s.regs.pal.get i.toFin).channel ch) ∧
              (s.env.looked = [] → ∀ ch', ¬ (j = k ∧ ch' = ch) →
                c ch' = (t'.regs.pal.get i'.toFin).channel ch')

/-- What `unpack` makes of a line, format by format (45_pixel_format.md R232 to R237). -/
def Obligations.UnpackPlacesThePixels : Prop :=
  ∀ (o : BitOrder) (bytes : List Byte) (width k : Nat), k < width →
    (∀ fmt, (unpack o bytes fmt width).length = width) ∧
    (∀ b, bytes[k / 8]? = some b →
      (unpack .msbFirst bytes .bpp1 width)[k]? = some (.index (if b.getLsbD (7 - k % 8) then 1 else 0)) ∧
      (unpack .lsbFirst bytes .bpp1 width)[k]? = some (.index (if b.getLsbD (k % 8) then 1 else 0))) ∧
    (∀ b, bytes[k / 2]? = some b →
      (unpack .msbFirst bytes .bpp4 width)[k]? =
        some (.index (if k % 2 = 0 then b >>> 4 else b &&& 0x0F)) ∧
      (unpack .lsbFirst bytes .bpp4 width)[k]? =
        some (.index (if k % 2 = 0 then b &&& 0x0F else b >>> 4))) ∧
    (∀ b, bytes[k]? = some b → (unpack o bytes .bpp8 width)[k]? = some (.index b)) ∧
    (∀ lo hi, bytes[2 * k]? = some lo → bytes[2 * k + 1]? = some hi →
      (unpack o bytes .bpp16 width)[k]? = some (.direct (.rgb565 (hi ++ lo)))) ∧
    (∀ r g b, bytes[3 * k]? = some r → bytes[3 * k + 1]? = some g → bytes[3 * k + 2]? = some b →
      (unpack o bytes .bpp24 width)[k]? = some (.direct (.rgb888 r g b)))

/-- Completion of the pixel transfer triggers the blanking transfer: in an active line the chain armed into `PIX`
stays so until the tick of column `W`, which takes it to `BLK`; a stopped chain stays stopped (46_dma_chain.md
R251). -/
def Obligations.PixelTransferEndsAtTheFirstBlankColumn : Prop :=
  ∀ (s : State) (u : Bool), s.pix.line < activeLines s.cfg s.pix → 0 < s.pix.act.width.toNat →
    (s.pix.col = 0 → (tick u s).pix.chain = if s.regs.chainEn then .pix else .stopped) ∧
    (0 < s.pix.col → s.pix.col < s.pix.act.width.toNat → (tick u s).pix.chain = s.pix.chain) ∧
    (s.pix.col = s.pix.act.width.toNat → s.pix.chain = .pix → (tick u s).pix.chain = .blk) ∧
    (0 < s.pix.col → s.pix.chain = .stopped → (tick u s).pix.chain = .stopped)

/-! ### The blit engine and the host window -/

/-- A submission to a disabled or an occupied engine returns busy and changes nothing (47_arbiter_blit.md R270,
R274; the answer is kept in the model's own field, log entry 21). -/
def Obligations.BusySubmissionChangesNothing : Prop :=
  ∀ (s : State) (cmd : BlitCmd), s.cfg.blitPresent = true → (s.regs.blitEn = false ∨ s.blit ≠ none) →
    perform (.blitSubmit cmd) s = .next { s with env := { s.env with blitResult := some .busy } }

/-- A command with a region outside memory is rejected and recorded, and no memory is touched (47_arbiter_blit.md
R271, 60_exceptions.md R291; the answer is kept in the model's own field, log entry 21). -/
def Obligations.OutOfBoundsBlitIsRejected : Prop :=
  ∀ (s : State) (cmd : BlitCmd), s.cfg.blitPresent = true → s.regs.blitEn = true → s.blit = none →
    0 < cmd.width → 0 < cmd.height →
    (s.cfg.memCapacity < cmd.dst + (cmd.height - 1) * s.pix.act.stride + cmd.width ∨
      cmd.op ≠ .fill ∧ s.cfg.memCapacity < cmd.src + (cmd.height - 1) * s.pix.act.stride + cmd.width) →
      perform (.blitSubmit cmd) s = .next
        { s with
          faults := { s.faults with fBlit := true }
          out := s.out ++ [.faultLog (.blitBounds cmd)]
          env := { s.env with blitResult := some .boundsError } }

/-- A command inside memory is accepted with the pitch of the active descriptor, and no byte of memory is touched by
the submission; an empty command is done at once. A fill needs no source; for a copy or an xor no byte of the
source region is a byte of the destination region (47_arbiter_blit.md R270, R271, R272; the answer is kept in the
model's own field, log entry 21). -/
def Obligations.BlitInsideMemoryIsAccepted : Prop :=
  ∀ (s : State) (cmd : BlitCmd), s.cfg.blitPresent = true → s.regs.blitEn = true → s.blit = none →
    (cmd.width * cmd.height = 0 →
      perform (.blitSubmit cmd) s = .next { s with env := { s.env with blitResult := some .success } }) ∧
    (0 < cmd.width → 0 < cmd.height →
      cmd.dst + (cmd.height - 1) * s.pix.act.stride + cmd.width ≤ s.cfg.memCapacity →
      (cmd.op = .fill ∨
        cmd.src + (cmd.height - 1) * s.pix.act.stride + cmd.width ≤ s.cfg.memCapacity ∧
        ∀ r c r' c', r < cmd.height → r' < cmd.height → c < cmd.width → c' < cmd.width →
          cmd.src + r * s.pix.act.stride + c ≠ cmd.dst + r' * s.pix.act.stride + c') →
      perform (.blitSubmit cmd) s = .next
        { s with
          blit := some { cmd := cmd, pitch := s.pix.act.stride, next := 0 }
          env := { s.env with blitResult := some .success } })

/-- A slice runs only in the vertical blanking, while the pixel unit is not streaming (47_arbiter_blit.md R273,
R275). -/
def Obligations.SlicesNeverOverlapThePixelUnit : Prop :=
  ∀ (s t : State) (n : Nat), FrameInv s → perform (.blitSlice n) s = .next t →
    s.pix.inVblank = true ∧ s.pix.chain ≠ .pix

/-- Two slices one after the other are one slice of their sum, and a slice of more than one byte may be cut anywhere:
the same memory, the same place in the blit, the same completion. What it writes, whatever the cut: each destination
byte it processes is the fill value, or the source byte as it was before, or, where no two of its bytes share an
address, the destination xor the source (47_arbiter_blit.md R273, R276). -/
def Obligations.SlicesComposeWhateverTheCut : Prop :=
  (∀ (s t v : State) (m n : Nat), perform (.blitSlice m) s = .next t → perform (.blitSlice n) t = .next v →
    perform (.blitSlice (m + n)) s = .next v) ∧
  (∀ (s v : State) (m n : Nat), 0 < m → 0 < n → perform (.blitSlice (m + n)) s = .next v →
    ∃ t, perform (.blitSlice m) s = .next t ∧ perform (.blitSlice n) t = .next v) ∧
  ∀ (s t v : State) (j : BlitJob) (m n : Nat), MemInv s → BlitInv s → s.blit = some j →
    perform (.blitSlice m) s = .next t → perform (.blitSlice n) t = .next v →
    (v.blit = none ↔ j.next + m + n = j.cmd.width * j.cmd.height) ∧
    (∀ j', v.blit = some j' → j' = { j with next := j.next + m + n }) ∧
    ∀ k, j.next ≤ k → k < j.next + m + n →
      let S := j.cmd.src + k / j.cmd.width * j.pitch + k % j.cmd.width
      let D := j.cmd.dst + k / j.cmd.width * j.pitch + k % j.cmd.width
      (j.cmd.op = .fill → v.mem.read D = s.cfg.blitFillValue) ∧
      (j.cmd.op = .copy → v.mem.read D = s.mem.read S) ∧
      (j.cmd.op = .xor → j.cmd.width ≤ j.pitch → v.mem.read D = s.mem.read D ^^^ s.mem.read S)

/-- A slice leaves every byte of memory but the destination bytes it processes as it was, and everything but memory
and the blit's own record (47_arbiter_blit.md R273). -/
def Obligations.SliceWritesOnlyItsDestinationBytes : Prop :=
  ∀ (s t : State) (j : BlitJob) (n : Nat), s.blit = some j → perform (.blitSlice n) s = .next t →
    t = { s with mem := t.mem, blit := t.blit } ∧
    (t.blit = none ↔ j.next + n = j.cmd.width * j.cmd.height) ∧
    (∀ j', t.blit = some j' → j' = { j with next := j.next + n }) ∧
    ∀ a : Nat,
      (∀ k, j.next ≤ k → k < j.next + n →
        a ≠ j.cmd.dst + k / j.cmd.width * j.pitch + k % j.cmd.width) →
      t.mem.read a = s.mem.read a

/-- A copy of disjoint regions, run to its end in one slice, leaves each destination byte equal to its source
byte as it was before (47_arbiter_blit.md R273, R276). -/
def Obligations.CompletedCopyMatchesItsSource : Prop :=
  ∀ (s : State) (j : BlitJob), MemInv s → BlitInv s → s.blit = some j → j.cmd.op = .copy → j.next = 0 →
    s.pix.inVblank = true →
      ∃ t, perform (.blitSlice (j.cmd.width * j.cmd.height)) s = .next t ∧ t.blit = none ∧
        ∀ r c, r < j.cmd.height → c < j.cmd.width →
          t.mem.read (j.cmd.dst + r * j.pitch + c) = s.mem.read (j.cmd.src + r * j.pitch + c)

/-- One byte of a slice, operation by operation: copy, fill, or destination xor source (47_arbiter_blit.md R273). -/
def Obligations.OneByteSliceAppliesTheOperation : Prop :=
  ∀ (s : State) (j : BlitJob), MemInv s → BlitInv s → s.blit = some j → s.pix.inVblank = true →
    let S := j.cmd.src + j.next / j.cmd.width * j.pitch + j.next % j.cmd.width
    let D := j.cmd.dst + j.next / j.cmd.width * j.pitch + j.next % j.cmd.width
    ∃ t, perform (.blitSlice 1) s = .next t ∧
      (j.cmd.op = .copy → t.mem.read D = s.mem.read S) ∧
      (j.cmd.op = .fill → t.mem.read D = s.cfg.blitFillValue) ∧
      (j.cmd.op = .xor → t.mem.read D = s.mem.read D ^^^ s.mem.read S)

/-- A write through the host window changes its one byte and nothing else; outside the memory, where there
is no such event, the model faults (47_arbiter_blit.md R279, 20_memory.md R63; log entry 16). -/
def Obligations.HostWindowWritesOneByte : Prop :=
  ∀ (s : State) (a : Nat) (v : Byte), s.cfg.hostMemWindowPresent = true → s.mem.wf = true →
    (a < s.cfg.memCapacity → ∃ m, perform (.hostMemWrite a v) s = .next { s with mem := m } ∧
      m.read a = v ∧ ∀ b, b ≠ a → m.read b = s.mem.read b) ∧
    (s.cfg.memCapacity ≤ a → perform (.hostMemWrite a v) s = .fault (.noSuchAddress a))

/-! ### Reset, faults, output -/

/-- `Reset`, for every `RESET` whose shadow bytes resolve: each piece of state takes its field, the active descriptor is
what they resolve to, the palette is the drawn one; memory, inputs, output history and parameters are kept; the model's
own record of the line being shown is dropped. With the default `RESET` that is the table of 10_state.md R47
(70_reset_and_hazards.md R310, R311, R312; log entries 19 and 22). -/
def Obligations.ResetEventGivesTheResetTable : Prop :=
  (∀ (s : State) (pal : Palette) (d : Descriptor), resolve s.cfg s.cfg.reset.sh = some d →
    let r := s.cfg.reset
    perform (.reset pal) s = .next
      { s with
        regs :=
          { ctrl := r.ctrl, chainEn := r.chainEn, blitEn := r.blitEn, curs := r.curs, sh := r.sh, pal := pal,
            palIndex := r.palIndex, palChannel := r.palChannel, timingResetPending := r.timingResetPending }
        bus := { bte := r.bte, dataOut := r.dataOut }
        faults := r.faults
        pix :=
          { act := d, actMode := r.actMode, line := r.line, col := r.col, hsyncOut := r.hsyncOut,
            vsyncOut := r.vsyncOut, inVblank := r.inVblank, chain := r.chain, fetchOn := r.fetchOn,
            curLine := r.curLine, lastLine := r.lastLine }
        blit := r.blit
        env := { s.env with lineBytes := none, looked := [] } }) ∧
  ∀ (s : State) (pal : Palette), s.cfg.reset = ResetValues.default →
    perform (.reset pal) s = .next
      { s with
        regs :=
          { ctrl := 0, chainEn := true, blitEn := false, curs := 0,
            sh := { fbLo := 0, fbHi := 0, fbExt := 0, hresLo := 0, hresHi := 0, vresLo := 0, vresHi := 0,
                    pfmt := 0, loff := 0, sadr := 0 },
            pal := pal, palIndex := 0, palChannel := .red, timingResetPending := false }
        bus := { bte := .idle, dataOut := none }
        faults :=
          { fBus := false, fCfg := false, fUnderrun := false, fBlit := false, busFaultCount := 0,
            underrunCount := 0 }
        pix :=
          { act := { base := 0, start := 0, stride := 0, width := 0, height := 0, fmt := .bpp1 }, actMode := 0,
            line := 0, col := 0, hsyncOut := false, vsyncOut := false, inVblank := false, chain := .stopped,
            fetchOn := false, curLine := [], lastLine := [] }
        blit := none
        env := { s.env with lineBytes := none, looked := [] } }

/-- The output stream only grows, and no step writes the parameters (10_state.md R41, 00_scope.md R8). -/
def Obligations.OutputOnlyGrowsAndParametersStay : Prop :=
  ∀ s t : State, step s = .next t → s.out <+: t.out ∧ t.cfg = s.cfg

/-- No step but a reset clears a sticky flag or lowers a counter (10_state.md R33, R45(f)). -/
def Obligations.FlagsAndCountersNeverDecrease : Prop :=
  ∀ (e : Event) (s t : State), perform e s = .next t → (∀ p, e ≠ .reset p) →
    (s.faults.fBus = true → t.faults.fBus = true) ∧ (s.faults.fCfg = true → t.faults.fCfg = true) ∧
    (s.faults.fUnderrun = true → t.faults.fUnderrun = true) ∧ (s.faults.fBlit = true → t.faults.fBlit = true) ∧
    s.faults.busFaultCount ≤ t.faults.busFaultCount ∧ s.faults.underrunCount ≤ t.faults.underrunCount

/-- Left to itself, the machine never stops: with an empty agenda every step answers a next state, and so does
every bus dispatch and every tick (60_exceptions.md R285; the agenda is the model's own, log entry 1). -/
def Obligations.NothingHaltsTheMachine : Prop :=
  ∀ s : State,
    (s.env.agenda = [] → ∃ t, step s = .next t) ∧
    (∀ rest u, s.env.agenda = .tick u :: rest → ∃ t, step s = .next t) ∧
    (∀ rest, s.env.agenda = .bte :: rest → s.bus.bte ≠ .idle → ∃ t, step s = .next t)

/-! ### Invariants -/

/-- Every step keeps the memory in its canonical form, which is the model's own (log entry 6), and inside its capacity
(20_memory.md R63, 10_state.md R38). -/
def Obligations.EveryStepKeepsMemoryCanonical : Prop :=
  ∀ s t : State, MemInv s → step s = .next t → MemInv t

/-- Every step keeps the bus discipline: strobes do not overlap, a byte is driven only while the read strobe is low
(10_state.md R45(b), 40_bus_engine.md R120, R128). -/
def Obligations.EveryStepKeepsTheBusDiscipline : Prop :=
  ∀ s t : State, BusInv s → step s = .next t → BusInv t

/-- Every step keeps the frame sound: the active descriptor inside memory, the position inside the frame, the line
buffers as long as a line, the pixel unit at work only in active lines outside the vertical blanking (10_state.md
R45(c) to (e), 44_timing_sync.md R215, 47_arbiter_blit.md R275). -/
def Obligations.EveryStepKeepsTheFrameSound : Prop :=
  ∀ s t : State, FrameInv s → step s = .next t → FrameInv t

/-- Every step keeps the blit engine sound: a blit in progress lies inside memory, has bytes left and no overlap; an
absent engine has none (47_arbiter_blit.md R278, R281). -/
def Obligations.EveryStepKeepsTheBlitSound : Prop :=
  ∀ s t : State, BlitInv s → step s = .next t → BlitInv t

/-- The four invariants hold at `State.reset` (10_state.md R47, R45; its parameters, inputs and memory are the model's
choice, log entries 4, 6 and 20). -/
def Obligations.ResetStateIsSound : Prop :=
  MemInv State.reset ∧ BusInv State.reset ∧ FrameInv State.reset ∧ BlitInv State.reset
end

