-- ==== Sys2Proof/Laws/State.lean ====
section
/-! SUPPORT. One lemma per field per update of State, and per field for emit, raise, nextDraw and the three ends of a bus operation. -/

namespace Sys2Proof.Machine

@[simp] theorem State.withRegs_cfg (s : State) (x : RegSide) : (s.withRegs x).cfg = s.cfg := rfl
@[simp] theorem State.withRegs_regs (s : State) (x : RegSide) : (s.withRegs x).regs = x := rfl
@[simp] theorem State.withRegs_bus (s : State) (x : RegSide) : (s.withRegs x).bus = s.bus := rfl
@[simp] theorem State.withRegs_faults (s : State) (x : RegSide) : (s.withRegs x).faults = s.faults := rfl
@[simp] theorem State.withRegs_pix (s : State) (x : RegSide) : (s.withRegs x).pix = s.pix := rfl
@[simp] theorem State.withRegs_mem (s : State) (x : RegSide) : (s.withRegs x).mem = s.mem := rfl
@[simp] theorem State.withRegs_blit (s : State) (x : RegSide) : (s.withRegs x).blit = s.blit := rfl
@[simp] theorem State.withRegs_inputs (s : State) (x : RegSide) : (s.withRegs x).inputs = s.inputs := rfl
@[simp] theorem State.withRegs_out (s : State) (x : RegSide) : (s.withRegs x).out = s.out := rfl
@[simp] theorem State.withRegs_env (s : State) (x : RegSide) : (s.withRegs x).env = s.env := rfl

@[simp] theorem State.withBus_cfg (s : State) (x : Bus) : (s.withBus x).cfg = s.cfg := rfl
@[simp] theorem State.withBus_regs (s : State) (x : Bus) : (s.withBus x).regs = s.regs := rfl
@[simp] theorem State.withBus_bus (s : State) (x : Bus) : (s.withBus x).bus = x := rfl
@[simp] theorem State.withBus_faults (s : State) (x : Bus) : (s.withBus x).faults = s.faults := rfl
@[simp] theorem State.withBus_pix (s : State) (x : Bus) : (s.withBus x).pix = s.pix := rfl
@[simp] theorem State.withBus_mem (s : State) (x : Bus) : (s.withBus x).mem = s.mem := rfl
@[simp] theorem State.withBus_blit (s : State) (x : Bus) : (s.withBus x).blit = s.blit := rfl
@[simp] theorem State.withBus_inputs (s : State) (x : Bus) : (s.withBus x).inputs = s.inputs := rfl
@[simp] theorem State.withBus_out (s : State) (x : Bus) : (s.withBus x).out = s.out := rfl
@[simp] theorem State.withBus_env (s : State) (x : Bus) : (s.withBus x).env = s.env := rfl

@[simp] theorem State.withFaults_cfg (s : State) (x : FaultRecord) : (s.withFaults x).cfg = s.cfg := rfl
@[simp] theorem State.withFaults_regs (s : State) (x : FaultRecord) : (s.withFaults x).regs = s.regs := rfl
@[simp] theorem State.withFaults_bus (s : State) (x : FaultRecord) : (s.withFaults x).bus = s.bus := rfl
@[simp] theorem State.withFaults_faults (s : State) (x : FaultRecord) : (s.withFaults x).faults = x := rfl
@[simp] theorem State.withFaults_pix (s : State) (x : FaultRecord) : (s.withFaults x).pix = s.pix := rfl
@[simp] theorem State.withFaults_mem (s : State) (x : FaultRecord) : (s.withFaults x).mem = s.mem := rfl
@[simp] theorem State.withFaults_blit (s : State) (x : FaultRecord) : (s.withFaults x).blit = s.blit := rfl
@[simp] theorem State.withFaults_inputs (s : State) (x : FaultRecord) : (s.withFaults x).inputs = s.inputs := rfl
@[simp] theorem State.withFaults_out (s : State) (x : FaultRecord) : (s.withFaults x).out = s.out := rfl
@[simp] theorem State.withFaults_env (s : State) (x : FaultRecord) : (s.withFaults x).env = s.env := rfl

@[simp] theorem State.withPix_cfg (s : State) (x : PixelSide) : (s.withPix x).cfg = s.cfg := rfl
@[simp] theorem State.withPix_regs (s : State) (x : PixelSide) : (s.withPix x).regs = s.regs := rfl
@[simp] theorem State.withPix_bus (s : State) (x : PixelSide) : (s.withPix x).bus = s.bus := rfl
@[simp] theorem State.withPix_faults (s : State) (x : PixelSide) : (s.withPix x).faults = s.faults := rfl
@[simp] theorem State.withPix_pix (s : State) (x : PixelSide) : (s.withPix x).pix = x := rfl
@[simp] theorem State.withPix_mem (s : State) (x : PixelSide) : (s.withPix x).mem = s.mem := rfl
@[simp] theorem State.withPix_blit (s : State) (x : PixelSide) : (s.withPix x).blit = s.blit := rfl
@[simp] theorem State.withPix_inputs (s : State) (x : PixelSide) : (s.withPix x).inputs = s.inputs := rfl
@[simp] theorem State.withPix_out (s : State) (x : PixelSide) : (s.withPix x).out = s.out := rfl
@[simp] theorem State.withPix_env (s : State) (x : PixelSide) : (s.withPix x).env = s.env := rfl

@[simp] theorem State.withMem_cfg (s : State) (x : Memory) : (s.withMem x).cfg = s.cfg := rfl
@[simp] theorem State.withMem_regs (s : State) (x : Memory) : (s.withMem x).regs = s.regs := rfl
@[simp] theorem State.withMem_bus (s : State) (x : Memory) : (s.withMem x).bus = s.bus := rfl
@[simp] theorem State.withMem_faults (s : State) (x : Memory) : (s.withMem x).faults = s.faults := rfl
@[simp] theorem State.withMem_pix (s : State) (x : Memory) : (s.withMem x).pix = s.pix := rfl
@[simp] theorem State.withMem_mem (s : State) (x : Memory) : (s.withMem x).mem = x := rfl
@[simp] theorem State.withMem_blit (s : State) (x : Memory) : (s.withMem x).blit = s.blit := rfl
@[simp] theorem State.withMem_inputs (s : State) (x : Memory) : (s.withMem x).inputs = s.inputs := rfl
@[simp] theorem State.withMem_out (s : State) (x : Memory) : (s.withMem x).out = s.out := rfl
@[simp] theorem State.withMem_env (s : State) (x : Memory) : (s.withMem x).env = s.env := rfl

@[simp] theorem State.withBlit_cfg (s : State) (x : Option BlitJob) : (s.withBlit x).cfg = s.cfg := rfl
@[simp] theorem State.withBlit_regs (s : State) (x : Option BlitJob) : (s.withBlit x).regs = s.regs := rfl
@[simp] theorem State.withBlit_bus (s : State) (x : Option BlitJob) : (s.withBlit x).bus = s.bus := rfl
@[simp] theorem State.withBlit_faults (s : State) (x : Option BlitJob) : (s.withBlit x).faults = s.faults := rfl
@[simp] theorem State.withBlit_pix (s : State) (x : Option BlitJob) : (s.withBlit x).pix = s.pix := rfl
@[simp] theorem State.withBlit_mem (s : State) (x : Option BlitJob) : (s.withBlit x).mem = s.mem := rfl
@[simp] theorem State.withBlit_blit (s : State) (x : Option BlitJob) : (s.withBlit x).blit = x := rfl
@[simp] theorem State.withBlit_inputs (s : State) (x : Option BlitJob) : (s.withBlit x).inputs = s.inputs := rfl
@[simp] theorem State.withBlit_out (s : State) (x : Option BlitJob) : (s.withBlit x).out = s.out := rfl
@[simp] theorem State.withBlit_env (s : State) (x : Option BlitJob) : (s.withBlit x).env = s.env := rfl

@[simp] theorem State.withInputs_cfg (s : State) (x : Inputs) : (s.withInputs x).cfg = s.cfg := rfl
@[simp] theorem State.withInputs_regs (s : State) (x : Inputs) : (s.withInputs x).regs = s.regs := rfl
@[simp] theorem State.withInputs_bus (s : State) (x : Inputs) : (s.withInputs x).bus = s.bus := rfl
@[simp] theorem State.withInputs_faults (s : State) (x : Inputs) : (s.withInputs x).faults = s.faults := rfl
@[simp] theorem State.withInputs_pix (s : State) (x : Inputs) : (s.withInputs x).pix = s.pix := rfl
@[simp] theorem State.withInputs_mem (s : State) (x : Inputs) : (s.withInputs x).mem = s.mem := rfl
@[simp] theorem State.withInputs_blit (s : State) (x : Inputs) : (s.withInputs x).blit = s.blit := rfl
@[simp] theorem State.withInputs_inputs (s : State) (x : Inputs) : (s.withInputs x).inputs = x := rfl
@[simp] theorem State.withInputs_out (s : State) (x : Inputs) : (s.withInputs x).out = s.out := rfl
@[simp] theorem State.withInputs_env (s : State) (x : Inputs) : (s.withInputs x).env = s.env := rfl

@[simp] theorem State.withOut_cfg (s : State) (x : List OutEvent) : (s.withOut x).cfg = s.cfg := rfl
@[simp] theorem State.withOut_regs (s : State) (x : List OutEvent) : (s.withOut x).regs = s.regs := rfl
@[simp] theorem State.withOut_bus (s : State) (x : List OutEvent) : (s.withOut x).bus = s.bus := rfl
@[simp] theorem State.withOut_faults (s : State) (x : List OutEvent) : (s.withOut x).faults = s.faults := rfl
@[simp] theorem State.withOut_pix (s : State) (x : List OutEvent) : (s.withOut x).pix = s.pix := rfl
@[simp] theorem State.withOut_mem (s : State) (x : List OutEvent) : (s.withOut x).mem = s.mem := rfl
@[simp] theorem State.withOut_blit (s : State) (x : List OutEvent) : (s.withOut x).blit = s.blit := rfl
@[simp] theorem State.withOut_inputs (s : State) (x : List OutEvent) : (s.withOut x).inputs = s.inputs := rfl
@[simp] theorem State.withOut_out (s : State) (x : List OutEvent) : (s.withOut x).out = x := rfl
@[simp] theorem State.withOut_env (s : State) (x : List OutEvent) : (s.withOut x).env = s.env := rfl

@[simp] theorem State.withEnv_cfg (s : State) (x : Env) : (s.withEnv x).cfg = s.cfg := rfl
@[simp] theorem State.withEnv_regs (s : State) (x : Env) : (s.withEnv x).regs = s.regs := rfl
@[simp] theorem State.withEnv_bus (s : State) (x : Env) : (s.withEnv x).bus = s.bus := rfl
@[simp] theorem State.withEnv_faults (s : State) (x : Env) : (s.withEnv x).faults = s.faults := rfl
@[simp] theorem State.withEnv_pix (s : State) (x : Env) : (s.withEnv x).pix = s.pix := rfl
@[simp] theorem State.withEnv_mem (s : State) (x : Env) : (s.withEnv x).mem = s.mem := rfl
@[simp] theorem State.withEnv_blit (s : State) (x : Env) : (s.withEnv x).blit = s.blit := rfl
@[simp] theorem State.withEnv_inputs (s : State) (x : Env) : (s.withEnv x).inputs = s.inputs := rfl
@[simp] theorem State.withEnv_out (s : State) (x : Env) : (s.withEnv x).out = s.out := rfl
@[simp] theorem State.withEnv_env (s : State) (x : Env) : (s.withEnv x).env = x := rfl

@[simp] theorem emit_cfg (e : OutEvent) (s : State) : (emit e s).cfg = s.cfg := rfl
@[simp] theorem emit_regs (e : OutEvent) (s : State) : (emit e s).regs = s.regs := rfl
@[simp] theorem emit_bus (e : OutEvent) (s : State) : (emit e s).bus = s.bus := rfl
@[simp] theorem emit_faults (e : OutEvent) (s : State) : (emit e s).faults = s.faults := rfl
@[simp] theorem emit_pix (e : OutEvent) (s : State) : (emit e s).pix = s.pix := rfl
@[simp] theorem emit_mem (e : OutEvent) (s : State) : (emit e s).mem = s.mem := rfl
@[simp] theorem emit_blit (e : OutEvent) (s : State) : (emit e s).blit = s.blit := rfl
@[simp] theorem emit_inputs (e : OutEvent) (s : State) : (emit e s).inputs = s.inputs := rfl
@[simp] theorem emit_out (e : OutEvent) (s : State) : (emit e s).out = s.out ++ [e] := rfl
@[simp] theorem emit_env (e : OutEvent) (s : State) : (emit e s).env = s.env := rfl

@[simp] theorem raise_cfg (f : FaultInfo) (s : State) : (raise f s).cfg = s.cfg := rfl
@[simp] theorem raise_regs (f : FaultInfo) (s : State) : (raise f s).regs = s.regs := rfl
@[simp] theorem raise_bus (f : FaultInfo) (s : State) : (raise f s).bus = s.bus := rfl
@[simp] theorem raise_faults (f : FaultInfo) (s : State) : (raise f s).faults = s.faults.record f := rfl
@[simp] theorem raise_pix (f : FaultInfo) (s : State) : (raise f s).pix = s.pix := rfl
@[simp] theorem raise_mem (f : FaultInfo) (s : State) : (raise f s).mem = s.mem := rfl
@[simp] theorem raise_blit (f : FaultInfo) (s : State) : (raise f s).blit = s.blit := rfl
@[simp] theorem raise_inputs (f : FaultInfo) (s : State) : (raise f s).inputs = s.inputs := rfl
@[simp] theorem raise_out (f : FaultInfo) (s : State) : (raise f s).out = s.out ++ [.faultLog f] := rfl
@[simp] theorem raise_env (f : FaultInfo) (s : State) : (raise f s).env = s.env := rfl

@[simp] theorem nextDraw_cfg  (s : State) : (nextDraw s).cfg = s.cfg := rfl
@[simp] theorem nextDraw_regs  (s : State) : (nextDraw s).regs = s.regs := rfl
@[simp] theorem nextDraw_bus  (s : State) : (nextDraw s).bus = s.bus := rfl
@[simp] theorem nextDraw_faults  (s : State) : (nextDraw s).faults = s.faults := rfl
@[simp] theorem nextDraw_pix  (s : State) : (nextDraw s).pix = s.pix := rfl
@[simp] theorem nextDraw_mem  (s : State) : (nextDraw s).mem = s.mem := rfl
@[simp] theorem nextDraw_blit  (s : State) : (nextDraw s).blit = s.blit := rfl
@[simp] theorem nextDraw_inputs  (s : State) : (nextDraw s).inputs = s.inputs := rfl
@[simp] theorem nextDraw_out  (s : State) : (nextDraw s).out = s.out := rfl
@[simp] theorem nextDraw_env  (s : State) : (nextDraw s).env = { s.env with draws := s.env.draws + 1 } := rfl

@[simp] theorem finishRead_cfg (v : Byte) (s : State) : (finishRead v s).cfg = s.cfg := rfl
@[simp] theorem finishRead_regs (v : Byte) (s : State) : (finishRead v s).regs = s.regs := rfl
@[simp] theorem finishRead_bus (v : Byte) (s : State) : (finishRead v s).bus = { bte := s.bus.bte.after .dispatchRead, dataOut := if s.bus.bte.missed then s.bus.dataOut else some v } := rfl
@[simp] theorem finishRead_faults (v : Byte) (s : State) : (finishRead v s).faults = s.faults := rfl
@[simp] theorem finishRead_pix (v : Byte) (s : State) : (finishRead v s).pix = s.pix := rfl
@[simp] theorem finishRead_mem (v : Byte) (s : State) : (finishRead v s).mem = s.mem := rfl
@[simp] theorem finishRead_blit (v : Byte) (s : State) : (finishRead v s).blit = s.blit := rfl
@[simp] theorem finishRead_inputs (v : Byte) (s : State) : (finishRead v s).inputs = s.inputs := rfl
@[simp] theorem finishRead_out (v : Byte) (s : State) : (finishRead v s).out = s.out := rfl
@[simp] theorem finishRead_env (v : Byte) (s : State) : (finishRead v s).env = s.env := rfl

@[simp] theorem finishWrite_cfg  (s : State) : (finishWrite s).cfg = s.cfg := rfl
@[simp] theorem finishWrite_regs  (s : State) : (finishWrite s).regs = s.regs := rfl
@[simp] theorem finishWrite_bus  (s : State) : (finishWrite s).bus = { s.bus with bte := s.bus.bte.after .dispatchWrite } := rfl
@[simp] theorem finishWrite_faults  (s : State) : (finishWrite s).faults = s.faults := rfl
@[simp] theorem finishWrite_pix  (s : State) : (finishWrite s).pix = s.pix := rfl
@[simp] theorem finishWrite_mem  (s : State) : (finishWrite s).mem = s.mem := rfl
@[simp] theorem finishWrite_blit  (s : State) : (finishWrite s).blit = s.blit := rfl
@[simp] theorem finishWrite_inputs  (s : State) : (finishWrite s).inputs = s.inputs := rfl
@[simp] theorem finishWrite_out  (s : State) : (finishWrite s).out = s.out := rfl
@[simp] theorem finishWrite_env  (s : State) : (finishWrite s).env = s.env := rfl

@[simp] theorem finishIgnore_cfg  (s : State) : (finishIgnore s).cfg = s.cfg := rfl
@[simp] theorem finishIgnore_regs  (s : State) : (finishIgnore s).regs = s.regs := rfl
@[simp] theorem finishIgnore_bus  (s : State) : (finishIgnore s).bus = { s.bus with bte := s.bus.bte.after .ignore } := rfl
@[simp] theorem finishIgnore_faults  (s : State) : (finishIgnore s).faults = s.faults := rfl
@[simp] theorem finishIgnore_pix  (s : State) : (finishIgnore s).pix = s.pix := rfl
@[simp] theorem finishIgnore_mem  (s : State) : (finishIgnore s).mem = s.mem := rfl
@[simp] theorem finishIgnore_blit  (s : State) : (finishIgnore s).blit = s.blit := rfl
@[simp] theorem finishIgnore_inputs  (s : State) : (finishIgnore s).inputs = s.inputs := rfl
@[simp] theorem finishIgnore_out  (s : State) : (finishIgnore s).out = s.out := rfl
@[simp] theorem finishIgnore_env  (s : State) : (finishIgnore s).env = s.env := rfl

@[simp] theorem Bte.after_decode (f : Transaction → Bte) (t : Transaction) : (Bte.decode t).after f = f t := rfl
@[simp] theorem Bte.missed_decode (t : Transaction) : (Bte.decode t).missed = t.deasserted := rfl

end Sys2Proof.Machine
end

