-- ==== Sys2Proof/Laws/Memory.lean ====
section
/-! SUPPORT. The laws of external memory: read after write, the canonical form, the capacity. -/

namespace Sys2Proof.Machine

theorem Memory.wfFrom_mono {n k : Nat} {m : Memory} (h : Memory.wfFrom n m = true) (hk : k ≤ n) :
    Memory.wfFrom k m = true := by
  cases m with
  | nil => rfl
  | cons c m =>
    simp only [Memory.wfFrom, Bool.and_eq_true, decide_eq_true_eq] at h ⊢
    exact ⟨⟨by omega, h.1.2⟩, h.2⟩

theorem Memory.read_below {n a : Nat} {m : Memory} (h : Memory.wfFrom n m = true) (ha : a < n) :
    m.read a = Memory.launch := by
  induction m generalizing n with
  | nil => rfl
  | cons c m ih =>
    simp only [Memory.wfFrom, Bool.and_eq_true, decide_eq_true_eq] at h
    have hne : c.1 ≠ a := by omega
    simp only [Memory.read, hne, if_false]
    exact ih h.2 (by omega)

theorem Memory.write_wfFrom {n a : Nat} {b : Byte} {m : Memory} (h : Memory.wfFrom n m = true) (ha : n ≤ a) :
    Memory.wfFrom n (m.write a b) = true := by
  induction m generalizing n with
  | nil => by_cases hb : b = Memory.launch <;> simp [Memory.write, Memory.wfFrom, hb, ha]
  | cons c m ih =>
    simp only [Memory.wfFrom, Bool.and_eq_true, decide_eq_true_eq] at h
    obtain ⟨⟨hn, hv⟩, hm⟩ := h
    by_cases hlt : a < c.1
    · by_cases hb : b = Memory.launch
      · simp [Memory.write, Memory.wfFrom, hlt, hb, hn, hv, hm]
      · simp [Memory.write, Memory.wfFrom, hlt, hb, ha, hv, hm]
    · by_cases heq : a = c.1
      · by_cases hb : b = Memory.launch
        · simpa [Memory.write, hlt, heq, hb] using Memory.wfFrom_mono hm (by omega)
        · simp [Memory.write, Memory.wfFrom, heq, hb, hn, hm]
      · simp [Memory.write, Memory.wfFrom, hlt, heq, hn, hv, ih hm (by omega)]

/-- Every write keeps the canonical form. -/
theorem Memory.write_wf {m : Memory} (h : m.wf = true) (a : Nat) (b : Byte) : (m.write a b).wf = true :=
  Memory.write_wfFrom h (Nat.zero_le a)

theorem Memory.within_cons (cap : Nat) (c : Host.Cell) (m : Memory) :
    Memory.within cap (c :: m) = (decide (c.1 < cap) && Memory.within cap m) := rfl

/-- A write inside the capacity keeps the memory inside it. -/
theorem Memory.write_within {cap a : Nat} {b : Byte} {m : Memory} (h : m.within cap = true) (ha : a < cap) :
    (m.write a b).within cap = true := by
  induction m with
  | nil => by_cases hb : b = Memory.launch <;> simp [Memory.write, Memory.within, hb, ha]
  | cons c m ih =>
    rw [Memory.within_cons, Bool.and_eq_true, decide_eq_true_eq] at h
    have ht := ih h.2
    simp only [Memory.write]
    split_ifs <;> simp [Memory.within_cons, h.1, h.2, ha, ht]

/-- A read after a write to the same place gives the value written. -/
theorem Memory.read_write_same {n : Nat} {m : Memory} (h : Memory.wfFrom n m = true) (a : Nat) (b : Byte) :
    (m.write a b).read a = b := by
  induction m generalizing n with
  | nil => by_cases hb : b = Memory.launch <;> simp [Memory.write, Memory.read, hb]
  | cons c m ih =>
    simp only [Memory.wfFrom, Bool.and_eq_true, decide_eq_true_eq] at h
    by_cases hlt : a < c.1
    · by_cases hb : b = Memory.launch
      · have hne : c.1 ≠ a := by omega
        have hl := Memory.read_below (a := a) h.2 (by omega)
        simp [Memory.write, hlt, hb, Memory.read, hne, hl]
      · simp [Memory.write, hlt, hb, Memory.read]
    · by_cases heq : a = c.1
      · by_cases hb : b = Memory.launch
        · have hl := Memory.read_below (a := c.1) h.2 (by omega)
          simp [Memory.write, heq, hb, hl]
        · simp [Memory.write, heq, hb, Memory.read]
      · have hne : c.1 ≠ a := by omega
        simp [Memory.write, hlt, heq, Memory.read, hne, ih h.2]

/-- A write leaves every other place alone. -/
theorem Memory.read_write_other {m : Memory} {a x : Nat} (b : Byte) (hx : x ≠ a) :
    (m.write a b).read x = m.read x := by
  have hxa : a ≠ x := hx.symm
  induction m with
  | nil => by_cases hb : b = Memory.launch <;> simp [Memory.write, Memory.read, hb, hxa]
  | cons c m ih =>
    by_cases hlt : a < c.1
    · by_cases hb : b = Memory.launch <;> simp [Memory.write, hlt, hb, Memory.read, hxa]
    · by_cases heq : a = c.1
      · subst heq
        by_cases hb : b = Memory.launch <;> simp [Memory.write, hb, Memory.read, hxa]
      · simp [Memory.write, hlt, heq, Memory.read, ih]

theorem Memory.read_write {m : Memory} (h : m.wf = true) (a x : Nat) (b : Byte) :
    (m.write a b).read x = if x = a then b else m.read x := by
  by_cases hx : x = a
  · subst hx; simp [Memory.read_write_same h]
  · simp [hx, Memory.read_write_other b hx]

/-- A blit's bytes keep the canonical form. -/
theorem blitBytes_wf {fill : Byte} {j : BlitJob} {start n : Nat} {m : Memory} (h : m.wf = true) :
    (blitBytes fill j start n m).wf = true := by
  induction n generalizing start m with
  | zero => simpa [blitBytes] using h
  | succ n ih =>
    simp only [blitBytes, List.range'_succ, List.foldl_cons] at ih ⊢
    exact ih (Memory.write_wf h _ _)

/-- Byte `k` of a job inside memory lies before the end of its region. -/
theorem regionAddr_lt {j : BlitJob} {a k : Nat} (hk : k < j.cmd.total) :
    regionAddr j a k < regionEnd j.cmd j.pitch a := by
  have hw : 0 < j.cmd.width := by
    rcases Nat.eq_zero_or_pos j.cmd.width with h | h
    · simp [BlitCmd.total, h] at hk
    · exact h
  have hq : k / j.cmd.width < j.cmd.height := by
    rw [Nat.div_lt_iff_lt_mul hw, Nat.mul_comm]; exact hk
  have hm : k % j.cmd.width < j.cmd.width := Nat.mod_lt _ hw
  have hle : k / j.cmd.width * j.pitch ≤ (j.cmd.height - 1) * j.pitch :=
    Nat.mul_le_mul_right _ (by omega)
  simp only [regionAddr, regionEnd]
  omega

/-- Every byte a job inside memory writes lies inside memory. -/
theorem regionAddr_dst_lt {cap : Nat} {j : BlitJob} {k : Nat} (hb : inBounds cap j.cmd j.pitch = true)
    (hk : k < j.cmd.total) : regionAddr j j.cmd.dst k < cap := by
  have hlt := regionAddr_lt (a := j.cmd.dst) hk
  have hw : j.cmd.width ≠ 0 := by
    intro h
    simp [BlitCmd.total, h] at hk
  have hh : j.cmd.height ≠ 0 := by
    intro h
    simp [BlitCmd.total, h] at hk
  simp only [inBounds, hw, hh, decide_false, Bool.false_or, Bool.and_eq_true, decide_eq_true_eq] at hb
  omega

/-- A slice inside the job keeps the memory inside its capacity. -/
theorem blitBytes_within {cap : Nat} {fill : Byte} {j : BlitJob} {start n : Nat} {m : Memory}
    (h : m.within cap = true) (hb : inBounds cap j.cmd j.pitch = true) (hn : start + n ≤ j.cmd.total) :
    (blitBytes fill j start n m).within cap = true := by
  induction n generalizing start m with
  | zero => simpa [blitBytes] using h
  | succ n ih =>
    simp only [blitBytes, List.range'_succ, List.foldl_cons] at ih ⊢
    exact ih (Memory.write_within h (regionAddr_dst_lt hb (by omega))) (by omega)

end Sys2Proof.Machine
end

