-- ==== Sys2Proof/Laws/Blit.lean ====
section
/-! SUPPORT. The bounds and the overlap of a blit in plain arithmetic, and what its bytes leave alone. -/

namespace Sys2Proof.Machine

/-- The bounds of a command, for a region that is not empty. -/
theorem inBounds_iff {cap : Nat} {cmd : BlitCmd} {pitch : Nat} (hw : 0 < cmd.width) (hh : 0 < cmd.height) :
    inBounds cap cmd pitch = true ↔
      regionEnd cmd pitch cmd.dst ≤ cap ∧ (cmd.op = .fill ∨ regionEnd cmd pitch cmd.src ≤ cap) := by
  have h1 : cmd.width ≠ 0 := by omega
  have h2 : cmd.height ≠ 0 := by omega
  simp [inBounds, h1, h2]

/-- An empty command lies inside every memory. -/
theorem inBounds_empty {cap : Nat} {cmd : BlitCmd} {pitch : Nat} (h : cmd.width * cmd.height = 0) :
    inBounds cap cmd pitch = true := by
  rcases Nat.mul_eq_zero.1 h with h | h <;> simp [inBounds, h]

/-- No byte of the source region is a byte of the destination region. -/
theorem regionsMeet_eq_false_iff (cmd : BlitCmd) (p : Nat) :
    regionsMeet cmd p = false ↔
      ∀ r c r' c', r < cmd.height → r' < cmd.height → c < cmd.width → c' < cmd.width →
        cmd.src + r * p + c ≠ cmd.dst + r' * p + c' := by
  simp only [regionsMeet, rowsMeet, List.any_eq_false, List.mem_range, List.any_eq_true,
    not_exists, Bool.and_eq_true, decide_eq_true_eq, not_and]
  constructor
  · intro h r c r' c' hr hr' hc hc' he
    have := h r hr r' hr'
    omega
  · intro h r hr r' hr' h1 h2
    rcases Nat.lt_or_ge (cmd.src + r * p) (cmd.dst + r' * p) with h3 | h3
    · exact h r (cmd.dst + r' * p - (cmd.src + r * p)) r' 0 hr hr' (by omega) (by omega) (by omega)
    · exact h r 0 r' (cmd.src + r * p - (cmd.dst + r' * p)) hr hr' (by omega) (by omega) (by omega)

/-- The first byte of a slice, then the others. -/
theorem blitBytes_succ (fill : Byte) (j : BlitJob) (start n : Nat) (m : Memory) :
    blitBytes fill j start (n + 1) m = blitBytes fill j (start + 1) n (blitByte fill j m start) := by
  simp [blitBytes, List.range'_succ]

/-- Bytes processed in two parts are the bytes processed in one. -/
theorem blitBytes_append (fill : Byte) (j : BlitJob) (start m n : Nat) (mem : Memory) :
    blitBytes fill j start (m + n) mem = blitBytes fill j (start + m) n (blitBytes fill j start m mem) := by
  simp only [blitBytes]
  rw [← List.range'_append_1, List.foldl_append]

/-- When a slice answers: a blit in progress inside memory, in the vertical blanking, with that many bytes left. -/
theorem blitSlice_answers {s : State} {j : BlitJob} {n : Nat} (hj : s.blit = some j) (hv : s.pix.inVblank = true)
    (h0 : 0 < n) (hn : j.next + n ≤ j.cmd.total) (hb : inBounds s.cfg.memCapacity j.cmd j.pitch = true) :
    perform (.blitSlice n) s =
      .next ((s.withMem (blitBytes s.cfg.blitFillValue j j.next n s.mem)).withBlit (j.advance n)) := by
  have h1 : ¬ (n = 0 ∨ j.cmd.total < j.next + n) := by omega
  simp [perform, blitSlice, hj, hv, hb, h1]

/-- A byte that is no destination byte of the slice keeps its value. -/
theorem blitBytes_read_other {fill : Byte} {j : BlitJob} {a n start : Nat} {m : Memory}
    (h : ∀ k, start ≤ k → k < start + n → a ≠ regionAddr j j.cmd.dst k) :
    (blitBytes fill j start n m).read a = m.read a := by
  induction n generalizing start m with
  | zero => rfl
  | succ n ih =>
    rw [blitBytes_succ, ih fun k h1 h2 => h k (by omega) (by omega)]
    exact Memory.read_write_other _ (h start (by omega) (by omega))

/-- Byte `k` of a region is the byte at column `k % width` of row `k / width`, and the other way round. -/
theorem regionAddr_row {j : BlitJob} {a r c : Nat} (hc : c < j.cmd.width) :
    regionAddr j a (r * j.cmd.width + c) = a + r * j.pitch + c := by
  have hw : 0 < j.cmd.width := by omega
  have h1 : (r * j.cmd.width + c) / j.cmd.width = r := by
    rw [Nat.add_comm, Nat.add_mul_div_right _ _ hw, Nat.div_eq_of_lt hc, Nat.zero_add]
  have h2 : (r * j.cmd.width + c) % j.cmd.width = c := by
    rw [Nat.add_comm, Nat.add_mul_mod_self_right, Nat.mod_eq_of_lt hc]
  simp only [regionAddr, h1, h2]

end Sys2Proof.Machine
end

