-- ==== Sys2Proof/Laws/Step.lean ====
section
/-! SUPPORT. What one step can do: the head of the agenda, a free move, or a tick; and runs move by move. -/

namespace Sys2Proof.Machine

@[simp] theorem popAgenda_cfg (r : List Event) (s : State) : (popAgenda r s).cfg = s.cfg := rfl
@[simp] theorem popAgenda_regs (r : List Event) (s : State) : (popAgenda r s).regs = s.regs := rfl
@[simp] theorem popAgenda_bus (r : List Event) (s : State) : (popAgenda r s).bus = s.bus := rfl
@[simp] theorem popAgenda_faults (r : List Event) (s : State) : (popAgenda r s).faults = s.faults := rfl
@[simp] theorem popAgenda_pix (r : List Event) (s : State) : (popAgenda r s).pix = s.pix := rfl
@[simp] theorem popAgenda_mem (r : List Event) (s : State) : (popAgenda r s).mem = s.mem := rfl
@[simp] theorem popAgenda_blit (r : List Event) (s : State) : (popAgenda r s).blit = s.blit := rfl
@[simp] theorem popAgenda_inputs (r : List Event) (s : State) : (popAgenda r s).inputs = s.inputs := rfl
@[simp] theorem popAgenda_out (r : List Event) (s : State) : (popAgenda r s).out = s.out := rfl
@[simp] theorem popAgenda_env (r : List Event) (s : State) :
    (popAgenda r s).env = { s.env with agenda := r } := rfl

/-- A run of at least one step, whose first move is known. -/
theorem run_cons {s t : State} {e : Event} {rest : List Event} {n : Nat} (h : s.env.agenda = e :: rest)
    (hp : perform e (popAgenda rest s) = .next t) :
    Host.Core.run Sys2Proof.core (n + 1) s = Host.Core.run Sys2Proof.core n t := by
  have hs : Sys2Proof.core.step s = .next t := by simpa only [Sys2Proof.core, step, moveNext, h] using hp
  simp only [Host.Core.run, hs]

/-- A free move is a move of some agent, or a tick. -/
theorem performFree_cases {e : Event} {s t : State} (h : performFree e s = .next t) :
    perform e s = .next t ∨ t = tick false s := by
  unfold performFree at h
  cases hp : perform e s <;> rw [hp] at h <;> simp_all

/-- A free move always answers a next state. -/
theorem performFree_next (e : Event) (s : State) : ∃ t, performFree e s = .next t := by
  unfold performFree
  cases perform e s <;> exact ⟨_, rfl⟩

/-- Everything a step can do: it performs one event of one agent, at the state with only its agenda or its count of
draws moved on. -/
theorem step_cases {s t : State} (h : step s = .next t) :
    ∃ (e : Event) (v : Env), perform e (s.withEnv v) = .next t := by
  cases ha : s.env.agenda with
  | cons e rest =>
    simp only [step, moveNext, ha] at h
    exact ⟨e, _, h⟩
  | nil =>
    simp only [step, moveNext, ha] at h
    rcases performFree_cases h with hp | ht
    · exact ⟨_, _, hp⟩
    · exact ⟨.tick false, _, congrArg Host.Outcome.next ht.symm⟩

/-- What every event keeps, every step keeps, if the property does not look at `env`. -/
theorem step_keeps {P : State → Prop} (henv : ∀ s v, P s → P (s.withEnv v))
    (hp : ∀ e s t, P s → perform e s = .next t → P t) {s t : State} (hs : P s) (h : step s = .next t) : P t := by
  obtain ⟨e, v, he⟩ := step_cases h
  exact hp e _ t (henv s v hs) he

end Sys2Proof.Machine
end

