-- ==== Sys2Proof/Laws/Bus.lean ====
section
/-! SUPPORT. What the bus engine's operations do: acceptance, the two rises, dispatch and retire, and every operation's frame. -/

namespace Sys2Proof.Machine

/-- In IDLE the edge makes the transaction record. -/
theorem acceptEdge_idle {c : Cycle} {s : State} (h : s.bus.bte = .idle) :
    acceptEdge c s = s.withBus { s.bus with bte := .decode (Transaction.ofCycle c) } := by
  simp only [acceptEdge, h]

/-- In every other state the edge is a ProtocolTimingFault and is dropped. -/
theorem acceptEdge_busy {c : Cycle} {s : State} (h : s.bus.bte ≠ .idle) :
    acceptEdge c s = raise (.protocolTiming .edgeWhileBusy) s := by
  unfold acceptEdge
  cases hb : s.bus.bte <;> simp_all

/-- A rise in DECODE of the transaction's own strobe is a ProtocolTimingFault and is noted. -/
theorem missDeadline_decode {k : Kind} {s : State} {t : Transaction} (h : s.bus.bte = .decode t)
    (hk : t.kind = k) :
    missDeadline k s =
      raise (.protocolTiming .missedDeadline)
        (s.withBus { s.bus with bte := .decode { t with deasserted := true } }) := by
  simp only [missDeadline, h, hk, if_true]

/-- Every other rise leaves the engine and the fault record alone. -/
theorem missDeadline_else {k : Kind} {s : State} (h : ∀ t, s.bus.bte = .decode t → t.kind ≠ k) :
    missDeadline k s = s := by
  unfold missDeadline
  cases hb : s.bus.bte <;> simp_all

/-- The dispatch performs the decoded instruction. -/
theorem perform_bte_decode {s : State} {t : Transaction} (h : s.bus.bte = .decode t) :
    perform .bte s = exec (decode s.cfg.base t.raw) s := by
  simp only [perform, bteStep, h, fetched]

/-- The host's bookkeeping is all that `hostTakes` touches. -/
theorem hostTakes_eq (s : State) : ∃ v : Env, hostTakes s = s.withEnv v := by
  unfold hostTakes
  cases s.bus.dataOut <;> exact ⟨_, rfl⟩

/-- The release of the data lines touches `data_out` and the host's bookkeeping. -/
theorem releaseData_eq (k : Kind) (s : State) :
    ∃ v : Env, releaseData k s =
      (s.withEnv v).withBus { s.bus with dataOut := if k = .rd then none else s.bus.dataOut } := by
  cases k with
  | rd =>
    obtain ⟨v, hv⟩ := hostTakes_eq s
    exact ⟨v, by simp [releaseData, hv]⟩
  | wr => exact ⟨s.env, rfl⟩

/-- Every bus operation answers a next state that differs in the register side and the bus engine only. -/
theorem exec_next (i : Instr) (s : State) : ∃ r b, exec i s = .next ((s.withRegs r).withBus b) := by
  cases i <;> exact ⟨_, _, rfl⟩

end Sys2Proof.Machine
end

