-- ==== Sys2Proof/Laws/Decode.lean ====
section
/-! SUPPORT. The fields of packed words, and the register map both ways. -/

namespace Sys2Proof

open Sys2Proof.Machine

/-- The fields of a RAW word are what it was packed from. -/
theorem cycleOf_rawBits (a : Bool) (k : Kind) (x : BusAddr) (d : Byte) :
    cycleOf (rawBits a k x d) = { aen := a, kind := k, addr := x, data := d } := by
  have h1 : (rawBits a k x d).getLsbD 25 = a := by
    simp only [rawBits, BitVec.getLsbD_append]; simp
  have h2 : kindOf ((rawBits a k x d).getLsbD 24) = k := by
    simp only [rawBits, BitVec.getLsbD_append]; cases k <;> simp [kindOf, Kind.bit]
  have h3 : (rawBits a k x d).extractLsb' 8 16 = x := by
    apply BitVec.eq_of_getLsbD_eq; intro i hi
    simp only [rawBits, BitVec.getLsbD_extractLsb', BitVec.getLsbD_append]
    simp [hi]
  have h4 : (rawBits a k x d).extractLsb' 0 8 = d := by
    apply BitVec.eq_of_getLsbD_eq; intro i hi
    simp only [rawBits, BitVec.getLsbD_extractLsb', BitVec.getLsbD_append]
    simp [hi]
  simp only [cycleOf, h1, h2, h3, h4]

@[simp] theorem cycleOf_rawOf (c : Cycle) : cycleOf (rawOf c) = c := cycleOf_rawBits _ _ _ _

@[simp] theorem decode_rawBits (base : BusAddr) (a : Bool) (k : Kind) (x : BusAddr) (d : Byte) :
    decode base (rawBits a k x d) = decodeCycle base { aen := a, kind := k, addr := x, data := d } := by
  simp [decode, cycleOf_rawBits]

/-- Packing the fields of a RAW word gives it back. -/
theorem rawOf_cycleOf (w : RawWord) : rawOf (cycleOf w) = w := by
  apply BitVec.eq_of_getLsbD_eq; intro i hi
  simp only [rawOf, rawBits, cycleOf, BitVec.getLsbD_append, BitVec.getLsbD_extractLsb']
  by_cases h8 : i < 8
  · simp [h8]
  · by_cases h24 : i < 24
    · simp [h8, show i - 8 < 16 by omega]; congr 1; omega
    · by_cases h25 : i = 24
      · subst h25; cases h : w.getLsbD 24 <;> simp [kindOf, Kind.bit]
      · have : i = 25 := by omega
        subst this; simp

/-- The fields of a REG word are what it was packed from. -/
theorem regBits_kind (k : Kind) (o : Offset) (d : Byte) : kindOf ((regBits k o d).getLsbD 12) = k := by
  simp only [regBits, BitVec.getLsbD_append]; cases k <;> simp [kindOf, Kind.bit]

theorem regBits_off (k : Kind) (o : Offset) (d : Byte) : (regBits k o d).extractLsb' 8 4 = o := by
  apply BitVec.eq_of_getLsbD_eq; intro i hi
  simp only [regBits, BitVec.getLsbD_extractLsb', BitVec.getLsbD_append]
  simp [hi]

theorem regBits_data (k : Kind) (o : Offset) (d : Byte) : (regBits k o d).extractLsb' 0 8 = d := by
  apply BitVec.eq_of_getLsbD_eq; intro i hi
  simp only [regBits, BitVec.getLsbD_extractLsb', BitVec.getLsbD_append]
  simp [hi]

@[simp] theorem regAt_offset (r : Reg) : regAt r.offset = r := by cases r <;> rfl

@[simp] theorem offset_regAt (o : Offset) : (regAt o).offset = o := by revert o; decide

@[simp] theorem decodeReg_rd (o : Offset) (d : Byte) : decodeReg (regBits .rd o d) = readInstr (regAt o) := by
  simp only [decodeReg, regBits_kind, regBits_off]

@[simp] theorem decodeReg_wr (o : Offset) (d : Byte) :
    decodeReg (regBits .wr o d) = writeInstr d (regAt o) := by
  simp only [decodeReg, regBits_kind, regBits_off, regBits_data]

@[simp] theorem readInstr_operation (r : Reg) : (readInstr r).operation = some (.rd, r, 0) := by cases r <;> rfl

@[simp] theorem writeInstr_operation (r : Reg) (d : Byte) : (writeInstr d r).operation = some (.wr, r, d) := by
  cases r <;> rfl

/-- A register operation is read back from its KIND, its offset and its DATA. -/
theorem decodeReg_of_operation {i : Instr} {k : Kind} {r : Reg} {d : Byte} (h : i.operation = some (k, r, d)) :
    decodeReg (regBits k r.offset d) = i := by
  cases i <;> simp only [Instr.operation, Option.some.injEq, Prod.mk.injEq, reduceCtorEq] at h <;>
    obtain ⟨rfl, rfl, rfl⟩ := h <;> simp [readInstr, writeInstr]

/-- The bus cycle of a register operation addresses its register inside the window. -/
theorem encodeCycle_of_operation {i : Instr} {k : Kind} {r : Reg} {d : Byte} (base : BusAddr)
    (h : i.operation = some (k, r, d)) :
    encodeCycle base i = { aen := false, kind := k, addr := base + r.offset.setWidth 16, data := d } := by
  cases i <;> simp only [Instr.operation, Option.some.injEq, Prod.mk.injEq, reduceCtorEq] at h <;>
    obtain ⟨rfl, rfl, rfl⟩ := h <;> rfl

/-- An instruction without an operation is an ignored cycle. -/
theorem ignored_of_operation_none {i : Instr} (h : i.operation = none) :
    (∃ k a d, i = .ignoreAen k a d) ∨ (∃ k a d, i = .ignoreMiss k a d) := by
  cases i <;> simp_all [Instr.operation]

/-- Inside an aligned window the offset is the address's low bits, and the rest is the base. -/
theorem inWindow_offset {base : BusAddr} (h : base &&& 0x000F#16 = 0#16) (o : Offset) :
    inWindow base (base + o.setWidth 16) = true ∧
      ((base + o.setWidth 16) &&& offsetMask).setWidth 4 = o := by
  have hb : ∀ i, i < 4 → base.getLsbD i = false := by
    intro i hi
    have h' := congrArg (fun v => v.getLsbD i) h
    have hm : (0x000F#16).getLsbD i = true := by
      have : i = 0 ∨ i = 1 ∨ i = 2 ∨ i = 3 := by omega
      rcases this with rfl | rfl | rfl | rfl <;> rfl
    simpa [BitVec.getLsbD_and, hm] using h'
  have hz : base &&& o.setWidth 16 = 0#16 := by
    apply BitVec.eq_of_getLsbD_eq; intro i hi
    by_cases h4 : i < 4
    · simp [hb i h4]
    · simp [BitVec.getLsbD_of_ge o i (by omega)]
  have hadd : base + o.setWidth 16 = base ||| o.setWidth 16 := BitVec.add_eq_or_of_and_eq_zero _ _ hz
  have hmask : ∀ i, i < 16 → (0xFFF0#16).getLsbD i = decide (4 ≤ i) := by decide
  have hoff : ∀ i, i < 4 → (0x000F#16).getLsbD i = true := by decide
  rw [hadd]
  constructor
  · simp only [inWindow, decodeMask, beq_iff_eq]
    apply BitVec.eq_of_getLsbD_eq; intro i hi
    rw [BitVec.getLsbD_and, BitVec.getLsbD_or, hmask i hi]
    by_cases h4 : i < 4
    · simp [hb i h4, show ¬ 4 ≤ i by omega]
    · simp [show 4 ≤ i by omega]
  · apply BitVec.eq_of_getLsbD_eq; intro i hi
    simp only [offsetMask, BitVec.getLsbD_setWidth, BitVec.getLsbD_and, BitVec.getLsbD_or, hb i hi, hoff i hi]
    simp [hi, show i < 16 by omega]

/-- The window of an aligned base address is the sixteen addresses from it (20_memory.md R61). -/
theorem inWindow_iff {base : BusAddr} (h : base &&& 0x000F#16 = 0#16) (a : BusAddr) :
    inWindow base a = true ↔ base.toNat ≤ a.toNat ∧ a.toNat ≤ base.toNat + 15 := by
  have hmask : ∀ i, i < 16 → (0xFFF0#16).getLsbD i = decide (4 ≤ i) := by decide
  have h1 : (a &&& 0xFFF0#16).toNat = a.toNat / 16 * 16 := by
    have hs : (a &&& 0xFFF0#16) = (a >>> 4) <<< 4 := by
      apply BitVec.eq_of_getLsbD_eq; intro i hi
      rw [BitVec.getLsbD_and, hmask i hi]
      by_cases h4 : 4 ≤ i <;> simp [h4, hi, show ¬ (i < 4) ↔ 4 ≤ i by omega]
    rw [hs]
    simp [BitVec.toNat_shiftLeft, BitVec.toNat_ushiftRight, Nat.shiftLeft_eq, Nat.shiftRight_eq_div_pow]
    omega
  have h2 : base.toNat % 16 = 0 := by
    have h' := congrArg BitVec.toNat h
    simp [BitVec.toNat_and] at h'
    have hm : base.toNat &&& 15 = base.toNat % 16 := Nat.and_two_pow_sub_one_eq_mod base.toNat 4
    omega
  simp only [inWindow, decodeMask, beq_iff_eq]
  constructor
  · rintro rfl; rw [h1]; omega
  · rintro ⟨h3, h4⟩; apply BitVec.eq_of_toNat_eq; rw [h1]; omega

end Sys2Proof
end

