-- ==== Sys2Proof/Laws/Scan.lean ====
section
/-! SUPPORT. What the parts of a tick leave alone, what they make of the pixel side, and that the output only grows. -/

namespace Sys2Proof.Machine

/-! ### The fields no part of a tick writes -/

@[simp] theorem startLine_cfg (b : Option (List Byte)) (s : State) : (startLine b s).cfg = s.cfg := rfl
@[simp] theorem startLine_regs (b : Option (List Byte)) (s : State) : (startLine b s).regs = s.regs := rfl
@[simp] theorem startLine_bus (b : Option (List Byte)) (s : State) : (startLine b s).bus = s.bus := rfl
@[simp] theorem startLine_faults (b : Option (List Byte)) (s : State) : (startLine b s).faults = s.faults := rfl
@[simp] theorem startLine_pix (b : Option (List Byte)) (s : State) : (startLine b s).pix = s.pix := rfl
@[simp] theorem startLine_mem (b : Option (List Byte)) (s : State) : (startLine b s).mem = s.mem := rfl
@[simp] theorem startLine_blit (b : Option (List Byte)) (s : State) : (startLine b s).blit = s.blit := rfl
@[simp] theorem startLine_inputs (b : Option (List Byte)) (s : State) : (startLine b s).inputs = s.inputs := rfl
@[simp] theorem startLine_out (b : Option (List Byte)) (s : State) : (startLine b s).out = s.out := rfl

@[simp] theorem latch_cfg (s : State) : (latch s).cfg = s.cfg := by
  unfold latch; cases resolve s.cfg s.regs.sh <;> rfl
@[simp] theorem latch_regs (s : State) : (latch s).regs = s.regs := by
  unfold latch; cases resolve s.cfg s.regs.sh <;> rfl
@[simp] theorem latch_bus (s : State) : (latch s).bus = s.bus := by
  unfold latch; cases resolve s.cfg s.regs.sh <;> rfl
@[simp] theorem latch_mem (s : State) : (latch s).mem = s.mem := by
  unfold latch; cases resolve s.cfg s.regs.sh <;> rfl
@[simp] theorem latch_blit (s : State) : (latch s).blit = s.blit := by
  unfold latch; cases resolve s.cfg s.regs.sh <;> rfl
@[simp] theorem latch_inputs (s : State) : (latch s).inputs = s.inputs := by
  unfold latch; cases resolve s.cfg s.regs.sh <;> rfl
@[simp] theorem latch_env (s : State) : (latch s).env = s.env := by
  unfold latch; cases resolve s.cfg s.regs.sh <;> rfl

@[simp] theorem emitVblank_cfg (s : State) : (emitVblank s).cfg = s.cfg := by
  unfold emitVblank; split <;> rfl
@[simp] theorem emitVblank_regs (s : State) : (emitVblank s).regs = s.regs := by
  unfold emitVblank; split <;> rfl
@[simp] theorem emitVblank_bus (s : State) : (emitVblank s).bus = s.bus := by
  unfold emitVblank; split <;> rfl
@[simp] theorem emitVblank_mem (s : State) : (emitVblank s).mem = s.mem := by
  unfold emitVblank; split <;> rfl
@[simp] theorem emitVblank_blit (s : State) : (emitVblank s).blit = s.blit := by
  unfold emitVblank; split <;> rfl
@[simp] theorem emitVblank_inputs (s : State) : (emitVblank s).inputs = s.inputs := by
  unfold emitVblank; split <;> rfl
@[simp] theorem emitVblank_env (s : State) : (emitVblank s).env = s.env := by
  unfold emitVblank; split <;> rfl

@[simp] theorem rebase_cfg (s : State) : (rebase s).cfg = s.cfg := rfl
@[simp] theorem rebase_bus (s : State) : (rebase s).bus = s.bus := rfl
@[simp] theorem rebase_mem (s : State) : (rebase s).mem = s.mem := rfl
@[simp] theorem rebase_blit (s : State) : (rebase s).blit = s.blit := rfl
@[simp] theorem rebase_inputs (s : State) : (rebase s).inputs = s.inputs := rfl
@[simp] theorem rebase_env (s : State) : (rebase s).env = s.env := rfl

@[simp] theorem vblankEvent_cfg (s : State) : (vblankEvent s).cfg = s.cfg := by
  simp [vblankEvent]
@[simp] theorem vblankEvent_bus (s : State) : (vblankEvent s).bus = s.bus := by
  simp [vblankEvent]
@[simp] theorem vblankEvent_mem (s : State) : (vblankEvent s).mem = s.mem := by
  simp [vblankEvent]
@[simp] theorem vblankEvent_blit (s : State) : (vblankEvent s).blit = s.blit := by
  simp [vblankEvent]
@[simp] theorem vblankEvent_inputs (s : State) : (vblankEvent s).inputs = s.inputs := by
  simp [vblankEvent]
@[simp] theorem vblankEvent_env (s : State) : (vblankEvent s).env = s.env := by
  simp [vblankEvent]

@[simp] theorem armChain_cfg (s : State) : (armChain s).cfg = s.cfg := rfl
@[simp] theorem armChain_regs (s : State) : (armChain s).regs = s.regs := rfl
@[simp] theorem armChain_bus (s : State) : (armChain s).bus = s.bus := rfl
@[simp] theorem armChain_mem (s : State) : (armChain s).mem = s.mem := rfl
@[simp] theorem armChain_blit (s : State) : (armChain s).blit = s.blit := rfl
@[simp] theorem armChain_inputs (s : State) : (armChain s).inputs = s.inputs := rfl

@[simp] theorem fillLine_cfg (u : Bool) (s : State) : (fillLine u s).cfg = s.cfg := by
  unfold fillLine; split <;> [(split <;> rfl); rfl]
@[simp] theorem fillLine_regs (u : Bool) (s : State) : (fillLine u s).regs = s.regs := by
  unfold fillLine; split <;> [(split <;> rfl); rfl]
@[simp] theorem fillLine_bus (u : Bool) (s : State) : (fillLine u s).bus = s.bus := by
  unfold fillLine; split <;> [(split <;> rfl); rfl]
@[simp] theorem fillLine_mem (u : Bool) (s : State) : (fillLine u s).mem = s.mem := by
  unfold fillLine; split <;> [(split <;> rfl); rfl]
@[simp] theorem fillLine_blit (u : Bool) (s : State) : (fillLine u s).blit = s.blit := by
  unfold fillLine; split <;> [(split <;> rfl); rfl]
@[simp] theorem fillLine_inputs (u : Bool) (s : State) : (fillLine u s).inputs = s.inputs := by
  unfold fillLine; split <;> [(split <;> rfl); rfl]

@[simp] theorem armLine_cfg (u : Bool) (s : State) : (armLine u s).cfg = s.cfg := by
  simp [armLine]
@[simp] theorem armLine_regs (u : Bool) (s : State) : (armLine u s).regs = s.regs := by
  simp [armLine]
@[simp] theorem armLine_bus (u : Bool) (s : State) : (armLine u s).bus = s.bus := by
  simp [armLine]
@[simp] theorem armLine_mem (u : Bool) (s : State) : (armLine u s).mem = s.mem := by
  simp [armLine]
@[simp] theorem armLine_blit (u : Bool) (s : State) : (armLine u s).blit = s.blit := by
  simp [armLine]
@[simp] theorem armLine_inputs (u : Bool) (s : State) : (armLine u s).inputs = s.inputs := by
  simp [armLine]

@[simp] theorem endPixelTransfer_cfg (s : State) : (endPixelTransfer s).cfg = s.cfg := by
  unfold endPixelTransfer; split <;> rfl
@[simp] theorem endPixelTransfer_regs (s : State) : (endPixelTransfer s).regs = s.regs := by
  unfold endPixelTransfer; split <;> rfl
@[simp] theorem endPixelTransfer_bus (s : State) : (endPixelTransfer s).bus = s.bus := by
  unfold endPixelTransfer; split <;> rfl
@[simp] theorem endPixelTransfer_mem (s : State) : (endPixelTransfer s).mem = s.mem := by
  unfold endPixelTransfer; split <;> rfl
@[simp] theorem endPixelTransfer_blit (s : State) : (endPixelTransfer s).blit = s.blit := by
  unfold endPixelTransfer; split <;> rfl
@[simp] theorem endPixelTransfer_inputs (s : State) : (endPixelTransfer s).inputs = s.inputs := by
  unfold endPixelTransfer; split <;> rfl
@[simp] theorem endPixelTransfer_env (s : State) : (endPixelTransfer s).env = s.env := by
  unfold endPixelTransfer; split <;> rfl

@[simp] theorem syncEdges_cfg (s : State) : (syncEdges s).cfg = s.cfg := by
  unfold syncEdges; simp only []; split <;> split <;> rfl
@[simp] theorem syncEdges_regs (s : State) : (syncEdges s).regs = s.regs := by
  unfold syncEdges; simp only []; split <;> split <;> rfl
@[simp] theorem syncEdges_bus (s : State) : (syncEdges s).bus = s.bus := by
  unfold syncEdges; simp only []; split <;> split <;> rfl
@[simp] theorem syncEdges_mem (s : State) : (syncEdges s).mem = s.mem := by
  unfold syncEdges; simp only []; split <;> split <;> rfl
@[simp] theorem syncEdges_blit (s : State) : (syncEdges s).blit = s.blit := by
  unfold syncEdges; simp only []; split <;> split <;> rfl
@[simp] theorem syncEdges_inputs (s : State) : (syncEdges s).inputs = s.inputs := by
  unfold syncEdges; simp only []; split <;> split <;> rfl
@[simp] theorem syncEdges_env (s : State) : (syncEdges s).env = s.env := by
  unfold syncEdges; simp only []; split <;> split <;> rfl

@[simp] theorem emitPixel_cfg (s : State) : (emitPixel s).cfg = s.cfg := by
  unfold emitPixel; split <;> rfl
@[simp] theorem emitPixel_regs (s : State) : (emitPixel s).regs = s.regs := by
  unfold emitPixel; split <;> rfl
@[simp] theorem emitPixel_bus (s : State) : (emitPixel s).bus = s.bus := by
  unfold emitPixel; split <;> rfl
@[simp] theorem emitPixel_mem (s : State) : (emitPixel s).mem = s.mem := by
  unfold emitPixel; split <;> rfl
@[simp] theorem emitPixel_blit (s : State) : (emitPixel s).blit = s.blit := by
  unfold emitPixel; split <;> rfl
@[simp] theorem emitPixel_inputs (s : State) : (emitPixel s).inputs = s.inputs := by
  unfold emitPixel; split <;> rfl
@[simp] theorem emitPixel_env (s : State) : (emitPixel s).env = s.env := by
  unfold emitPixel; split <;> rfl

@[simp] theorem tickEvent_cfg (s : State) : (tickEvent s).cfg = s.cfg := by
  unfold tickEvent; split <;> simp
@[simp] theorem tickEvent_bus (s : State) : (tickEvent s).bus = s.bus := by
  unfold tickEvent; split <;> simp
@[simp] theorem tickEvent_mem (s : State) : (tickEvent s).mem = s.mem := by
  unfold tickEvent; split <;> simp
@[simp] theorem tickEvent_blit (s : State) : (tickEvent s).blit = s.blit := by
  unfold tickEvent; split <;> simp
@[simp] theorem tickEvent_inputs (s : State) : (tickEvent s).inputs = s.inputs := by
  unfold tickEvent; split <;> simp
@[simp] theorem tickEvent_env (s : State) : (tickEvent s).env = s.env := by
  unfold tickEvent; split <;> simp

@[simp] theorem tickArm_cfg (u : Bool) (s : State) : (tickArm u s).cfg = s.cfg := by
  unfold tickArm; split <;> simp
@[simp] theorem tickArm_regs (u : Bool) (s : State) : (tickArm u s).regs = s.regs := by
  unfold tickArm; split <;> simp
@[simp] theorem tickArm_bus (u : Bool) (s : State) : (tickArm u s).bus = s.bus := by
  unfold tickArm; split <;> simp
@[simp] theorem tickArm_mem (u : Bool) (s : State) : (tickArm u s).mem = s.mem := by
  unfold tickArm; split <;> simp
@[simp] theorem tickArm_blit (u : Bool) (s : State) : (tickArm u s).blit = s.blit := by
  unfold tickArm; split <;> simp
@[simp] theorem tickArm_inputs (u : Bool) (s : State) : (tickArm u s).inputs = s.inputs := by
  unfold tickArm; split <;> simp

@[simp] theorem tick_cfg (u : Bool) (s : State) : (tick u s).cfg = s.cfg := by
  simp [tick]
@[simp] theorem tick_bus (u : Bool) (s : State) : (tick u s).bus = s.bus := by
  simp [tick]
@[simp] theorem tick_mem (u : Bool) (s : State) : (tick u s).mem = s.mem := by
  simp [tick]
@[simp] theorem tick_blit (u : Bool) (s : State) : (tick u s).blit = s.blit := by
  simp [tick]
@[simp] theorem tick_inputs (u : Bool) (s : State) : (tick u s).inputs = s.inputs := by
  simp [tick]

/-! ### The pixel side -/

theorem latch_pix (s : State) :
    (latch s).pix =
      { s.pix with actMode := modeSelect s.regs.ctrl, act := (resolve s.cfg s.regs.sh).getD s.pix.act } := by
  unfold latch; cases resolve s.cfg s.regs.sh <;> rfl

@[simp] theorem emitVblank_pix (s : State) : (emitVblank s).pix = s.pix := by
  unfold emitVblank; split <;> rfl

theorem vblankEvent_pix (s : State) :
    (vblankEvent s).pix =
      { (latch s).pix with
        line :=
          if s.regs.timingResetPending && decide (s.cfg.restartPos = .frameStart) then 0
          else activeLines s.cfg (latch s).pix
        col := 0
        lastLine := blankLine (activeWidth (latch s).pix) } := by
  simp [vblankEvent, rebase, vblankLine]

@[simp] theorem vblankEvent_regs (s : State) :
    (vblankEvent s).regs = { s.regs with timingResetPending := false } := by
  simp [vblankEvent, rebase]

theorem armLine_pix (u : Bool) (s : State) :
    (armLine u s).pix =
      { s.pix with
        chain := if s.regs.chainEn then (if lineActive s.cfg s.pix then .pix else .blk) else .stopped
        fetchOn := s.regs.chainEn && (enableOutput s.regs.ctrl && lineActive s.cfg s.pix)
        curLine :=
          if s.regs.chainEn && (enableOutput s.regs.ctrl && lineActive s.cfg s.pix) then
            (if u then s.pix.lastLine else fetchLine s)
          else blankLine (activeWidth s.pix)
        lastLine :=
          if (s.regs.chainEn && (enableOutput s.regs.ctrl && lineActive s.cfg s.pix)) && !u then fetchLine s
          else s.pix.lastLine } := by
  have hf : fetchLine (armChain s) = fetchLine s := rfl
  unfold armLine fillLine
  rw [hf]
  cases h1 : s.regs.chainEn <;> cases h2 : enableOutput s.regs.ctrl <;> cases h3 : lineActive s.cfg s.pix <;>
    cases u <;> simp [armChain, activeWidth, h1, h2, h3]

theorem endPixelTransfer_pix (s : State) :
    (endPixelTransfer s).pix =
      { s.pix with
        chain :=
          if s.pix.line < activeLines s.cfg s.pix ∧ s.pix.col = activeWidth s.pix ∧ s.pix.chain = .pix then .blk
          else s.pix.chain } := by
  unfold endPixelTransfer; split <;> rfl

theorem syncEdges_pix (s : State) :
    (syncEdges s).pix =
      { s.pix with
        vsyncOut := inVsync s.cfg s.pix
        hsyncOut := inHsync s.cfg s.pix
        inVblank := decide (activeLines s.cfg s.pix ≤ s.pix.line) } := by
  unfold syncEdges; simp only []; split <;> split <;> rfl

@[simp] theorem emitPixel_pix (s : State) : (emitPixel s).pix = s.pix := by
  unfold emitPixel; split <;> rfl

theorem tickEvent_else {s : State} (h : ¬ (s.pix.col = 0 ∧ s.pix.line = activeLines s.cfg s.pix)) :
    tickEvent s = s := by
  unfold tickEvent atVblank
  rw [if_neg]
  simpa using h

theorem tickEvent_at {s : State} (h : s.pix.col = 0 ∧ s.pix.line = activeLines s.cfg s.pix) :
    tickEvent s = vblankEvent s := by
  unfold tickEvent atVblank
  rw [if_pos]
  simpa using h

theorem tickArm_zero {u : Bool} {s : State} (h : s.pix.col = 0) : tickArm u s = armLine u s := if_pos h

theorem tickArm_else {u : Bool} {s : State} (h : s.pix.col ≠ 0) : tickArm u s = s := if_neg h

/-- The pixel side of a tick after its arm: the chain's end, the sync outputs, the advance. -/
def restPix (cfg : Config) (p : PixelSide) : PixelSide :=
  advancePos cfg
    { p with
      chain :=
        if p.line < activeLines cfg p ∧ p.col = activeWidth p ∧ p.chain = .pix then .blk else p.chain
      vsyncOut := inVsync cfg p
      hsyncOut := inHsync cfg p
      inVblank := decide (activeLines cfg p ≤ p.line) }

theorem tick_pix (u : Bool) (s : State) :
    (tick u s).pix = restPix s.cfg (tickArm u (tickEvent s)).pix := by
  simp only [tick, State.withPix_pix, emitPixel_pix, syncEdges_pix, endPixelTransfer_pix, emitPixel_cfg,
    syncEdges_cfg, endPixelTransfer_cfg, tickArm_cfg, tickEvent_cfg]
  rfl

/-- The pixel side of a tick inside a line. -/
theorem tick_pix_inside {u : Bool} {s : State} (h : s.pix.col ≠ 0) :
    (tick u s).pix = restPix s.cfg s.pix := by
  rw [tick_pix, tickEvent_else (fun hh => h hh.1), tickArm_else h]

/-- The pixel side of the tick that starts a line, outside the vblank event. -/
theorem tick_pix_arm {u : Bool} {s : State} (h : s.pix.col = 0)
    (hl : s.pix.line ≠ activeLines s.cfg s.pix) :
    (tick u s).pix = restPix s.cfg (armLine u s).pix := by
  rw [tick_pix, tickEvent_else (fun hh => hl hh.2), tickArm_zero h]

/-- The pixel side of the tick of the vblank event. -/
theorem tick_pix_vblank {u : Bool} {s : State} (h : s.pix.col = 0)
    (hl : s.pix.line = activeLines s.cfg s.pix) :
    (tick u s).pix = restPix s.cfg (armLine u (vblankEvent s)).pix := by
  rw [tick_pix, tickEvent_at ⟨h, hl⟩, tickArm_zero (by simp [vblankEvent_pix])]

@[simp] theorem restPix_act (cfg : Config) (p : PixelSide) : (restPix cfg p).act = p.act := rfl
@[simp] theorem restPix_actMode (cfg : Config) (p : PixelSide) : (restPix cfg p).actMode = p.actMode := rfl
@[simp] theorem restPix_fetchOn (cfg : Config) (p : PixelSide) : (restPix cfg p).fetchOn = p.fetchOn := rfl
@[simp] theorem restPix_curLine (cfg : Config) (p : PixelSide) : (restPix cfg p).curLine = p.curLine := rfl
@[simp] theorem restPix_lastLine (cfg : Config) (p : PixelSide) : (restPix cfg p).lastLine = p.lastLine := rfl
@[simp] theorem restPix_vsyncOut (cfg : Config) (p : PixelSide) : (restPix cfg p).vsyncOut = inVsync cfg p := rfl
@[simp] theorem restPix_hsyncOut (cfg : Config) (p : PixelSide) : (restPix cfg p).hsyncOut = inHsync cfg p := rfl
@[simp] theorem restPix_inVblank (cfg : Config) (p : PixelSide) :
    (restPix cfg p).inVblank = decide (activeLines cfg p ≤ p.line) := rfl
theorem restPix_chain (cfg : Config) (p : PixelSide) :
    (restPix cfg p).chain =
      if p.line < activeLines cfg p ∧ p.col = activeWidth p ∧ p.chain = .pix then .blk else p.chain := rfl
theorem restPix_col (cfg : Config) (p : PixelSide) :
    (restPix cfg p).col = if p.col + 1 = totalCols cfg p then 0 else p.col + 1 := rfl
theorem restPix_line (cfg : Config) (p : PixelSide) :
    (restPix cfg p).line =
      if (if p.col + 1 = totalCols cfg p then p.line + 1 else p.line) = totalLines cfg p then 0
      else if p.col + 1 = totalCols cfg p then p.line + 1 else p.line := rfl

/-- The vertical sync window. -/
theorem inVsync_iff (cfg : Config) (p : PixelSide) :
    inVsync cfg p = true ↔
      activeLines cfg p + (timingOf cfg p.actMode).vFront ≤ p.line ∧
        p.line < activeLines cfg p + (timingOf cfg p.actMode).vFront + (timingOf cfg p.actMode).vSync := by
  simp [inVsync]

/-- The horizontal sync window. -/
theorem inHsync_iff (cfg : Config) (p : PixelSide) :
    inHsync cfg p = true ↔
      activeWidth p + (timingOf cfg p.actMode).hFront ≤ p.col ∧
        p.col < activeWidth p + (timingOf cfg p.actMode).hFront + (timingOf cfg p.actMode).hSync := by
  simp [inHsync]

/-- An active line with a pixel. -/
theorem lineActive_iff (cfg : Config) (p : PixelSide) :
    lineActive cfg p = true ↔ p.line < activeLines cfg p ∧ 0 < p.act.width.toNat := by
  unfold lineActive
  rw [Bool.and_eq_true, decide_eq_true_iff, decide_eq_true_iff]
  rfl

/-- The pixels of a line, one by one. -/
theorem unpack_getElem? {order : BitOrder} {bytes : List Byte} {fmt : PixelFormat} {w k : Nat} (h : k < w) :
    (unpack order bytes fmt w)[k]? = some (pixelOf order fmt bytes k) := by
  simp [unpack, h]

@[simp] theorem unpack_length (order : BitOrder) (bytes : List Byte) (fmt : PixelFormat) (w : Nat) :
    (unpack order bytes fmt w).length = w := by
  simp [unpack]

@[simp] theorem linePixels_length (s : State) (b : List Byte) : (linePixels s b).length = activeWidth s.pix := by
  simp [linePixels]

@[simp] theorem fetchLine_length (s : State) : (fetchLine s).length = activeWidth s.pix := by
  simp [fetchLine]

@[simp] theorem blankLine_length (w : Nat) : (blankLine w).length = w := by
  simp [blankLine]

/-! ### Flags and output -/

theorem latch_faults (s : State) :
    (latch s).faults =
      if (resolve s.cfg s.regs.sh).isSome then s.faults else { s.faults with fCfg := true } := by
  unfold latch; cases resolve s.cfg s.regs.sh <;> rfl

theorem latch_out (s : State) :
    (latch s).out =
      s.out ++ if (resolve s.cfg s.regs.sh).isSome then []
        else [.faultLog (.outOfRangeConfiguration s.regs.sh)] := by
  unfold latch; cases resolve s.cfg s.regs.sh <;> simp

@[simp] theorem emitVblank_faults (s : State) : (emitVblank s).faults = s.faults := by
  unfold emitVblank; split <;> rfl

theorem emitVblank_out (s : State) :
    (emitVblank s).out = s.out ++ .vblank :: if irqEnable s.regs.ctrl then [.irq] else [] := by
  unfold emitVblank; split <;> simp

@[simp] theorem vblankEvent_faults (s : State) : (vblankEvent s).faults = (latch s).faults := by
  simp [vblankEvent, rebase]

@[simp] theorem vblankEvent_out (s : State) : (vblankEvent s).out = (emitVblank (latch s)).out := by
  simp [vblankEvent, rebase]

/-- An underrun of a fetching line. -/
def underruns (u : Bool) (s : State) : Bool :=
  (s.regs.chainEn && (enableOutput s.regs.ctrl && lineActive s.cfg s.pix)) && u

theorem armLine_faults (u : Bool) (s : State) :
    (armLine u s).faults =
      if underruns u s then s.faults.record (.scanoutUnderrun s.pix.line) else s.faults := by
  unfold armLine fillLine underruns
  cases h1 : s.regs.chainEn <;> cases h2 : enableOutput s.regs.ctrl <;> cases h3 : lineActive s.cfg s.pix <;>
    cases u <;> simp [armChain, h1, h2, h3]

/-- A line starts with nothing looked up ahead. -/
theorem armLine_looked (u : Bool) (s : State) : (armLine u s).env.looked = [] := by
  unfold armLine fillLine; split <;> [(split <;> rfl); rfl]

theorem armLine_out (u : Bool) (s : State) :
    (armLine u s).out =
      if underruns u s then s.out ++ [.faultLog (.scanoutUnderrun s.pix.line)] else s.out := by
  unfold armLine fillLine underruns
  cases h1 : s.regs.chainEn <;> cases h2 : enableOutput s.regs.ctrl <;> cases h3 : lineActive s.cfg s.pix <;>
    cases u <;> simp [armChain, h1, h2, h3]

@[simp] theorem endPixelTransfer_faults (s : State) : (endPixelTransfer s).faults = s.faults := by
  unfold endPixelTransfer; split <;> rfl

@[simp] theorem endPixelTransfer_out (s : State) : (endPixelTransfer s).out = s.out := by
  unfold endPixelTransfer; split <;> rfl

@[simp] theorem syncEdges_faults (s : State) : (syncEdges s).faults = s.faults := by
  unfold syncEdges; simp only []; split <;> split <;> rfl

theorem syncEdges_out (s : State) :
    (syncEdges s).out =
      s.out ++ (if inVsync s.cfg s.pix = s.pix.vsyncOut then [] else [.vsyncEdge (inVsync s.cfg s.pix)]) ++
        (if inHsync s.cfg s.pix = s.pix.hsyncOut then [] else [.hsyncEdge (inHsync s.cfg s.pix)]) := by
  unfold syncEdges
  by_cases hv : inVsync s.cfg s.pix = s.pix.vsyncOut <;> by_cases hh : inHsync s.cfg s.pix = s.pix.hsyncOut <;>
    simp [hv, hh]

@[simp] theorem emitPixel_faults (s : State) : (emitPixel s).faults = s.faults := by
  unfold emitPixel; split <;> rfl

theorem emitPixel_out (s : State) :
    (emitPixel s).out =
      s.out ++ if s.pix.line < activeLines s.cfg s.pix ∧ s.pix.col < activeWidth s.pix then
        [.pixel (pixelHere s)] else [] := by
  unfold emitPixel; split <;> simp

theorem pixelHere_rest (a : State) : pixelHere (syncEdges (endPixelTransfer a)) = pixelHere a := by
  simp [pixelHere, syncEdges_pix, endPixelTransfer_pix]

/-- What the rest of a tick appends after its arm: the two edges, then the pixel of an active position. -/
theorem emitPixel_rest_out (a : State) :
    (emitPixel (syncEdges (endPixelTransfer a))).out =
      a.out ++ (if inVsync a.cfg a.pix = a.pix.vsyncOut then [] else [.vsyncEdge (inVsync a.cfg a.pix)]) ++
        (if inHsync a.cfg a.pix = a.pix.hsyncOut then [] else [.hsyncEdge (inHsync a.cfg a.pix)]) ++
        if a.pix.line < activeLines a.cfg a.pix ∧ a.pix.col < activeWidth a.pix then [.pixel (pixelHere a)]
        else [] := by
  rw [emitPixel_out, pixelHere_rest, syncEdges_out, syncEdges_pix, syncEdges_cfg, endPixelTransfer_out,
    endPixelTransfer_pix, endPixelTransfer_cfg]
  rfl

theorem tick_out (u : Bool) (s : State) :
    (tick u s).out = (emitPixel (syncEdges (endPixelTransfer (tickArm u (tickEvent s))))).out := by
  simp only [tick, State.withPix_out]

theorem tick_faults (u : Bool) (s : State) : (tick u s).faults = (tickArm u (tickEvent s)).faults := by
  simp [tick]

theorem tick_out_prefix (u : Bool) (s : State) : (tickArm u (tickEvent s)).out <+: (tick u s).out := by
  simp only [tick, State.withPix_out, emitPixel_out, syncEdges_out, endPixelTransfer_out, List.append_assoc]
  exact List.prefix_append _ _

theorem armLine_out_prefix (u : Bool) (s : State) : s.out <+: (armLine u s).out := by
  rw [armLine_out]; split
  · exact List.prefix_append _ _
  · exact List.prefix_refl _

theorem vblankEvent_out_prefix (s : State) : s.out <+: (vblankEvent s).out := by
  rw [vblankEvent_out, emitVblank_out, latch_out, List.append_assoc]
  exact List.prefix_append _ _

theorem tickArm_out_prefix (u : Bool) (s : State) : s.out <+: (tickArm u s).out := by
  unfold tickArm; split
  · exact armLine_out_prefix u s
  · exact List.prefix_refl _

theorem tickEvent_out_prefix (s : State) : s.out <+: (tickEvent s).out := by
  unfold tickEvent; split
  · exact vblankEvent_out_prefix s
  · exact List.prefix_refl _

/-- A tick's output grows. -/
theorem tick_out_grows (u : Bool) (s : State) : s.out <+: (tick u s).out :=
  (tickEvent_out_prefix s).trans ((tickArm_out_prefix u _).trans (tick_out_prefix u s))

end Sys2Proof.Machine
end

