-- ==== Sys2Proof/Laws/Events.lean ====
section
/-! SUPPORT. What each event of each agent can do, said once: the fields it may write, and how. -/

namespace Sys2Proof.Machine

/-- The fault record is the same, or one fault of the bus was recorded. -/
def busFaultOnly (f g : FaultRecord) : Prop := g = f ∨ ∃ c, g = f.record (.protocolTiming c)

/-- A falling edge: it was legal, the strobe is low after it, and it is accepted in IDLE or recorded and dropped. -/
theorem strobeFall_next {c : Cycle} {s t : State} (h : perform (.strobeFall c) s = .next t) :
    s.inputs.rdLow = false ∧ s.inputs.wrLow = false ∧ t.inputs = s.inputs.setStrobe c.kind true ∧
    ((s.bus.bte = .idle ∧
        t = (s.withInputs t.inputs).withBus { s.bus with bte := .decode (Transaction.ofCycle c) }) ∨
      (s.bus.bte ≠ .idle ∧ t = raise (.protocolTiming .edgeWhileBusy) (s.withInputs t.inputs))) := by
  simp only [perform, strobeFall] at h
  split_ifs at h with hl
  rw [Bool.or_eq_true, not_or, Bool.not_eq_true, Bool.not_eq_true] at hl
  cases h
  by_cases hb : s.bus.bte = .idle
  · rw [acceptEdge_idle (by simpa using hb)]
    exact ⟨hl.1, hl.2, rfl, .inl ⟨hb, rfl⟩⟩
  · rw [acceptEdge_busy (by simpa using hb)]
    exact ⟨hl.1, hl.2, rfl, .inr ⟨hb, rfl⟩⟩

/-- A rise: the strobe was low and is high after it; the read strobe's rise releases the data lines; the transaction
in DECODE, if it is this strobe's, notes it and records a fault. -/
theorem strobeRise_next {k : Kind} {s t : State} (h : perform (.strobeRise k) s = .next t) :
    s.inputs.low k = true ∧ t.inputs = s.inputs.setStrobe k false ∧
    t.bus.dataOut = (if k = .rd then none else s.bus.dataOut) ∧
    t.cfg = s.cfg ∧ t.regs = s.regs ∧ t.pix = s.pix ∧ t.mem = s.mem ∧ t.blit = s.blit ∧
    ((∃ tr, s.bus.bte = .decode tr ∧ tr.kind = k ∧ t.bus.bte = .decode { tr with deasserted := true } ∧
        t.faults = s.faults.record (.protocolTiming .missedDeadline) ∧
        t.out = s.out ++ [.faultLog (.protocolTiming .missedDeadline)]) ∨
      ((∀ tr, s.bus.bte = .decode tr → tr.kind ≠ k) ∧ t.bus.bte = s.bus.bte ∧ t.faults = s.faults ∧
        t.out = s.out)) := by
  simp only [perform, strobeRise] at h
  split_ifs at h with hl
  cases h
  obtain ⟨v, hv⟩ := releaseData_eq k (s.withInputs (s.inputs.setStrobe k false))
  rw [hv]
  by_cases hb : ∃ tr, s.bus.bte = .decode tr ∧ tr.kind = k
  · obtain ⟨tr, hb, hk⟩ := hb
    rw [missDeadline_decode (t := tr) (by simpa using hb) hk]
    exact ⟨hl, rfl, rfl, rfl, rfl, rfl, rfl, rfl, .inl ⟨tr, hb, hk, rfl, rfl, rfl⟩⟩
  · have hne : ∀ tr, s.bus.bte = .decode tr → tr.kind ≠ k := fun tr ht hk => hb ⟨tr, ht, hk⟩
    rw [missDeadline_else (by simpa using hne)]
    exact ⟨hl, rfl, rfl, rfl, rfl, rfl, rfl, rfl, .inr ⟨hne, rfl, rfl, rfl⟩⟩

/-- The bus engine's own step writes the register side and the bus engine only. -/
theorem bte_next {s t : State} (h : perform .bte s = .next t) : t = (s.withRegs t.regs).withBus t.bus := by
  simp only [perform, bteStep] at h
  split at h
  · obtain ⟨r, b, hx⟩ := exec_next (fetched s ‹_›) s
    rw [hx] at h; cases h; rfl
  all_goals cases h
  all_goals rfl

/-- A submission at the blit port: the answer, and at most the blit in progress or the bounds fault. -/
theorem blitSubmit_next {cmd : BlitCmd} {s t : State} (h : perform (.blitSubmit cmd) s = .next t) :
    s.cfg.blitPresent = true ∧
    (t = s.withEnv t.env ∨
      (s.blit = none ∧ t = (raise (.blitBounds cmd) s).withEnv t.env) ∨
      (s.blit = none ∧ inBounds s.cfg.memCapacity cmd s.pix.act.stride = true ∧ cmd.total ≠ 0 ∧
        illegalOverlap cmd s.pix.act.stride = false ∧
        t = (s.withBlit (some { cmd := cmd, pitch := s.pix.act.stride, next := 0 })).withEnv t.env)) := by
  simp only [perform, blitSubmit] at h
  split_ifs at h with h1 h2 h3 h4 h5 h6
  · cases h; exact ⟨h1, .inl rfl⟩
  · cases h; exact ⟨h1, .inl rfl⟩
  · cases h; exact ⟨h1, .inr (.inl ⟨by simpa using h3, rfl⟩)⟩
  · cases h; exact ⟨h1, .inl rfl⟩
  · cases h
    exact ⟨h1, .inr (.inr ⟨by simpa using h3, by simpa using h4, h5, by simpa using h6, rfl⟩)⟩

/-- A late read: the line is unpacked again with one byte as memory has it now; nothing else but the bookkeeping. -/
theorem lateRead_next {k : Nat} {s t : State} (h : perform (.lateRead k) s = .next t) :
    ∃ bytes, s.env.lineBytes = some bytes ∧ readOpen s bytes k = true ∧
      t = (s.withPix
        { s.pix with
          curLine := linePixels s (bytes.set k (lateByte s k))
          lastLine := linePixels s (bytes.set k (lateByte s k)) }).withEnv t.env := by
  simp only [perform, lateRead] at h
  split at h
  · cases h
  · split_ifs at h with ho
    cases h
    exact ⟨_, ‹_›, ho, rfl⟩

/-- An early lookup touches the bookkeeping only. -/
theorem earlyLookup_next {k : Nat} {ch : Channel} {s t : State} (h : perform (.earlyLookup k ch) s = .next t) :
    t = s.withEnv t.env := by
  simp only [perform, earlyLookup] at h
  split_ifs at h
  split at h <;> cases h
  rfl

/-- A slice: a blit in progress inside memory, in the vertical blanking; its bytes are written and the blit moves on. -/
theorem blitSlice_next {n : Nat} {s t : State} (h : perform (.blitSlice n) s = .next t) :
    ∃ j, s.blit = some j ∧ s.pix.inVblank = true ∧ 0 < n ∧ j.next + n ≤ j.cmd.total ∧
      inBounds s.cfg.memCapacity j.cmd j.pitch = true ∧
      t = (s.withMem (blitBytes s.cfg.blitFillValue j j.next n s.mem)).withBlit (j.advance n) := by
  simp only [perform, blitSlice] at h
  split at h
  · cases h
  · rename_i j hj
    split_ifs at h with h1 h2 h3
    cases h
    exact ⟨j, hj, by simpa using h1, by omega, by omega, by simpa using h3, rfl⟩

/-- A write through the host window: one byte inside memory. -/
theorem hostMemWrite_next {a : Nat} {v : Byte} {s t : State} (h : perform (.hostMemWrite a v) s = .next t) :
    a < s.cfg.memCapacity ∧ t = s.withMem (s.mem.write a v) := by
  simp only [perform, hostMemWrite] at h
  split_ifs at h with h1 h2
  cases h
  exact ⟨h2, rfl⟩

/-- A tick always answers. -/
theorem tick_next {u : Bool} {s t : State} (h : perform (.tick u) s = .next t) : t = tick u s :=
  (Host.Outcome.next.inj (h.symm.trans rfl))

/-- A reset always answers. -/
theorem reset_next {p : Palette} {s t : State} (h : perform (.reset p) s = .next t) : t = resetEvent p s :=
  (Host.Outcome.next.inj (h.symm.trans rfl))

/-- A change of the link input always answers. -/
theorem linkActive_next {b : Bool} {s t : State} (h : perform (.linkActive b) s = .next t) : t = setLink b s :=
  (Host.Outcome.next.inj (h.symm.trans rfl))

end Sys2Proof.Machine
end

