-- ==== Sys2Proof/Laws/Frame.lean ====
section
/-! SUPPORT. The blanking of a legal timing record, the bound of a resolved descriptor, and the position after a tick. -/

namespace Sys2Proof.Machine

/-- Every mode of a legal configuration has a blanking column and a blanking line. -/
theorem blanking_pos {cfg : Config} (h : cfg.wf = true) (m : BitVec 3) :
    1 ≤ hBlank (timingOf cfg m) ∧ 1 ≤ vBlank (timingOf cfg m) := by
  have h1 : cfg.timingWf = true := by simp [Config.wf] at h; exact h.1.1.1.2
  have h2 := (Vector.all_eq_true.1 h1) m.toNat m.isLt
  simp only [Timing.wf, Bool.and_eq_true, decide_eq_true_eq] at h2
  exact h2.1

/-- What resolves lies inside memory. -/
theorem resolve_fits {cfg : Config} {sh : Shadow} {d : Descriptor} (h : resolve cfg sh = some d) : d.fits cfg := by
  unfold resolve at h
  split at h
  · cases h
  · split at h
    · cases h; simpa [Descriptor.fits]
    · cases h

theorem totalLines_eq (cfg : Config) (p : PixelSide) :
    totalLines cfg p = activeLines cfg p + vBlank (timingOf cfg p.actMode) := rfl

theorem totalCols_eq (cfg : Config) (p : PixelSide) :
    totalCols cfg p = activeWidth p + hBlank (timingOf cfg p.actMode) := rfl

/-- The advance keeps a position inside its frame. -/
theorem advancePos_lt {cfg : Config} {p : PixelSide} (hc : p.col < totalCols cfg p) (hl : p.line < totalLines cfg p) :
    (advancePos cfg p).line < totalLines cfg p ∧ (advancePos cfg p).col < totalCols cfg p := by
  simp only [advancePos]
  constructor <;> split_ifs <;> omega

end Sys2Proof.Machine
end

