-- ==== Sys2Proof/Laws/Palette.lean ====
section
/-! SUPPORT. The palette table read after write, and runs of palette operations one by one. -/

namespace Sys2Proof.Machine

/-- An entry after an entry was replaced. -/
theorem paletteSet_get (p : Palette) (i j : Byte) (e : Rgb) :
    (paletteSet p i e).get j.toFin = if j = i then e else p.get j.toFin := by
  simp only [paletteSet, Vector.get_eq_getElem]
  rw [Vector.getElem_set]
  by_cases h : j = i
  · subst h; simp
  · have : ¬ i.toNat = j.toNat := fun h' => h (BitVec.eq_of_toNat_eq h'.symm)
    simp [h, this]

@[simp] theorem execAll_nil (s : State) : execAll [] s = .next s := rfl

/-- A Palette Data write, then the others. -/
theorem execAll_wrPald (d : Byte) (is : List Instr) (s : State) :
    execAll (.wrPald d :: is) s = execAll is (finishWrite (applyPaletteData d s)) := rfl

/-- A Palette Address write, then the others. -/
theorem execAll_wrPala (d : Byte) (is : List Instr) (s : State) :
    execAll (.wrPala d :: is) s = execAll is (finishWrite (applyPaletteAddress d s)) := rfl

/-- The index after a completed triplet. -/
theorem index_succ (i : Byte) : i + 1 = BitVec.ofNat 8 ((i.toNat + 1) % 256) := by
  apply BitVec.eq_of_toNat_eq; simp [BitVec.toNat_add]

end Sys2Proof.Machine
end

