-- ==== Sys2Proof/Laws/PerInstr.lean ====
section
/-! SUPPORT. The per-instruction family RegRoundTrip: a register operation is read back from its REG word. -/

namespace Sys2Proof.Laws.RegRoundTrip

/-- The REG word of a register operation decodes to it (30_encoding.md R93); an ignored cycle has no REG word. -/
def Statement (i : Instr) : Prop :=
  ∀ w, encodeReg i = some w → decodeReg w = i

theorem of_operation {i : Instr} {k : Kind} {r : Reg} {d : Byte} (h : i.operation = some (k, r, d))
    (hi : decodeReg (regBits k r.offset d) = i) : Statement i := by
  intro w hw
  simp only [encodeReg, h, Option.map_some, Option.some.injEq] at hw
  rw [← hw, hi]

theorem rdCtrl : Statement .rdCtrl := of_operation rfl (by simp [readInstr])
theorem wrCtrl (d : Byte) : Statement (.wrCtrl d) := of_operation rfl (by simp [writeInstr])
theorem rdStat : Statement .rdStat := of_operation rfl (by simp [readInstr])
theorem wrStat (d : Byte) : Statement (.wrStat d) := of_operation rfl (by simp [writeInstr])
theorem rdPala : Statement .rdPala := of_operation rfl (by simp [readInstr])
theorem wrPala (d : Byte) : Statement (.wrPala d) := of_operation rfl (by simp [writeInstr])
theorem rdPald : Statement .rdPald := of_operation rfl (by simp [readInstr])
theorem wrPald (d : Byte) : Statement (.wrPald d) := of_operation rfl (by simp [writeInstr])
theorem rdFblo : Statement .rdFblo := of_operation rfl (by simp [readInstr])
theorem wrFblo (d : Byte) : Statement (.wrFblo d) := of_operation rfl (by simp [writeInstr])
theorem rdFbhi : Statement .rdFbhi := of_operation rfl (by simp [readInstr])
theorem wrFbhi (d : Byte) : Statement (.wrFbhi d) := of_operation rfl (by simp [writeInstr])
theorem rdFbext : Statement .rdFbext := of_operation rfl (by simp [readInstr])
theorem wrFbext (d : Byte) : Statement (.wrFbext d) := of_operation rfl (by simp [writeInstr])
theorem rdHrlo : Statement .rdHrlo := of_operation rfl (by simp [readInstr])
theorem wrHrlo (d : Byte) : Statement (.wrHrlo d) := of_operation rfl (by simp [writeInstr])
theorem rdHrhi : Statement .rdHrhi := of_operation rfl (by simp [readInstr])
theorem wrHrhi (d : Byte) : Statement (.wrHrhi d) := of_operation rfl (by simp [writeInstr])
theorem rdVrlo : Statement .rdVrlo := of_operation rfl (by simp [readInstr])
theorem wrVrlo (d : Byte) : Statement (.wrVrlo d) := of_operation rfl (by simp [writeInstr])
theorem rdVrhi : Statement .rdVrhi := of_operation rfl (by simp [readInstr])
theorem wrVrhi (d : Byte) : Statement (.wrVrhi d) := of_operation rfl (by simp [writeInstr])
theorem rdPfmt : Statement .rdPfmt := of_operation rfl (by simp [readInstr])
theorem wrPfmt (d : Byte) : Statement (.wrPfmt d) := of_operation rfl (by simp [writeInstr])
theorem rdDmac : Statement .rdDmac := of_operation rfl (by simp [readInstr])
theorem wrDmac (d : Byte) : Statement (.wrDmac d) := of_operation rfl (by simp [writeInstr])
theorem rdLoff : Statement .rdLoff := of_operation rfl (by simp [readInstr])
theorem wrLoff (d : Byte) : Statement (.wrLoff d) := of_operation rfl (by simp [writeInstr])
theorem rdSadr : Statement .rdSadr := of_operation rfl (by simp [readInstr])
theorem wrSadr (d : Byte) : Statement (.wrSadr d) := of_operation rfl (by simp [writeInstr])
theorem rdCurs : Statement .rdCurs := of_operation rfl (by simp [readInstr])
theorem wrCurs (d : Byte) : Statement (.wrCurs d) := of_operation rfl (by simp [writeInstr])
theorem ignoreAen (k : Kind) (a : BusAddr) (d : Byte) : Statement (.ignoreAen k a d) := by
  intro w hw; simp [encodeReg, Instr.operation] at hw
theorem ignoreMiss (k : Kind) (a : BusAddr) (d : Byte) : Statement (.ignoreMiss k a d) := by
  intro w hw; simp [encodeReg, Instr.operation] at hw

end Sys2Proof.Laws.RegRoundTrip
end

