-- ==== Sys2Proof/Tests/Slice0.lean ====
section
/-! SUPPORT. Small tests of the model: ill-formed terms, written-out words, one or two steps per operation, and, for
every statement with hypotheses, a witness that meets them. Expected values are those of spec/95_test_vectors.md (V<n>)
or worked by hand from the rule named. -/

namespace Sys2Proof.Tests

open Sys2Proof Sys2Proof.Machine

-- Each theorem below is one short kernel evaluation: one after the other, not a thread for each.
set_option Elab.async false

/-! ### Helpers -/

/-- The state a result answers, or the state before. -/
def after (s : State) (r : Result) : State :=
  match r with
  | .next t => t
  | .fault _ => s
  | .refused _ => s

/-- The result is a next state. -/
def goesOn (r : Result) : Bool :=
  match r with
  | .next _ => true
  | .fault _ => false
  | .refused _ => false

/-- A read cycle of offset 0, sampled. -/
def rdT : Transaction := { kind := .rd, addr := 0x300, aen := false, data := 0, deasserted := false }

/-- A write cycle of offset 0, sampled. -/
def wrT : Transaction := { kind := .wr, addr := 0x300, aen := false, data := 0x01, deasserted := false }

/-- A state whose engine has accepted a cycle. -/
def inDecode (t : Transaction) (s : State) : State := s.withBus { s.bus with bte := .decode t }

/-- The state after an operation dispatched at a state. -/
def ran (i : Instr) (s : State) : State := after s (exec i (inDecode wrT s))

/-- The byte a read drives. -/
def drives (i : Instr) (s : State) : Option Byte := (after s (exec i (inDecode rdT s))).bus.dataOut

/-- A state with these moves next. -/
def withAgenda (es : List Event) (s : State) : State := s.withEnv { s.env with agenda := es }

/-- The small timing of 44_timing_sync.md R223. -/
def small : Timing := { hFront := 1, hSync := 1, hBack := 1, vFront := 1, vSync := 1, vBack := 1, lineRepeat := 1 }

/-- A block with small timing, 0x1000 bytes of memory, blit engine and host window. -/
def smallCfg : Config :=
  { Config.default with
    memCapacity := 0x1000, timing := Vector.replicate 8 small, blitPresent := true, hostMemWindowPresent := true }

/-- The frame of V70 before its first tick: 4 by 2 pixels of 8bpp at 0x100, the bytes 0 to 7 there, and the palette
entries 0 and 1 of it. -/
def frame70 : State :=
  { State.reset with
    cfg := smallCfg
    regs :=
      { State.reset.regs with
        ctrl := 0x01
        sh := { Shadow.zero with fbHi := 0x01, hresLo := 4, vresLo := 2, pfmt := 2 }
        pal := paletteSet (paletteSet State.reset.regs.pal 0 { r := 0x10, g := 0x20, b := 0x30 }) 1
          { r := 0x11, g := 0x21, b := 0x31 } }
    pix :=
      { State.reset.pix with
        act := { base := 0x100, start := 0, stride := 4, width := 4, height := 2, fmt := .bpp8 }
        curLine := blankLine 4
        lastLine := blankLine 4 }
    mem := [(0x101, 1), (0x102, 2), (0x103, 3), (0x104, 4), (0x105, 5), (0x106, 6), (0x107, 7)] }

/-- The same frame at another position. -/
def at70 (line col : Nat) (s : State) : State := s.withPix { s.pix with line := line, col := col }

/-- The first vertical-blank line of that frame, with the blit engine enabled. -/
def blank70 : State :=
  let s := at70 2 1 frame70
  (s.withPix { s.pix with inVblank := true, chain := .blk }).withRegs { s.regs with blitEn := true }

/-- The memory of V106: bytes 0 to 15 hold their address. -/
def mem106 : Memory := (List.range 15).map fun k => (k + 1, BitVec.ofNat 8 (k + 1))

/-- The job of V106. -/
def job106 (op : BlitOp) : BlitJob :=
  { cmd := { src := 0, dst := 8, width := 2, height := 2, op := op }, pitch := 4, next := 0 }

/-- V106 in its vertical blanking, accepted and not begun. -/
def blit106 (op : BlitOp) : State := (blank70.withMem mem106).withBlit (some (job106 op))

/-! ### Well-formedness: each check refuses an ill-formed term -/

theorem test_wf_refuses_miss_inside_the_window :
    Instr.wf 0x300 (.ignoreMiss .wr 0x300 0) = false ∧ Instr.wf 0x300 (.ignoreMiss .rd 0x30F 0) = false ∧
      Instr.wf 0x300 (.ignoreMiss .rd 0x310 0) = true := by decide

theorem test_wf_refuses_unaligned_base : ({ Config.default with base := 0x301 } : Config).baseAligned = false := by
  decide

theorem test_wf_refuses_timing_without_blanking :
    ({ small with hFront := 0, hSync := 0, hBack := 0 } : Timing).wf = false ∧
      ({ small with vFront := 0, vSync := 0, vBack := 0 } : Timing).wf = false ∧
      ({ small with lineRepeat := 0 } : Timing).wf = false ∧ small.wf = true := by decide

theorem test_wf_refuses_bad_timing_in_one_mode :
    ({ Config.default with timing := (Vector.replicate 8 small).set 7 { small with lineRepeat := 0 } } :
      Config).timingWf = false := by decide +kernel

theorem test_wf_refuses_zero_unit : ({ Config.default with lineOffsetUnit := 0 } : Config).unitWf = false := by decide

theorem test_wf_refuses_reset_that_does_not_resolve :
    ({ Config.default with reset := { ResetValues.default with sh := { Shadow.zero with pfmt := 5 } } } :
      Config).resetResolves = false := by decide

theorem test_wf_refuses_reset_blit_without_the_engine :
    ({ Config.default with reset := { ResetValues.default with faults := { FaultRecord.clear with fBlit := true } } } :
      Config).resetBlitWf = false ∧
    ({ Config.default with
        reset :=
          { ResetValues.default with
            blit := some
              { cmd := { src := 0, dst := 0, width := 1, height := 1, op := .fill }, pitch := 0, next := 0 } } } :
      Config).resetBlitWf = false := by decide

theorem test_default_parameters_are_legal : Config.default.wf = true := by decide +kernel

/-! ### Decoding: words written out from the encodings (V1, V10 to V33, Part 3) -/

/-- The sixteen read rows of the opcode table: `KIND = 0`, `OFF` in bits 11:8 (30_encoding.md R93, R96). -/
theorem test_decode_reads :
    [0x0000, 0x0100, 0x0200, 0x0300, 0x0400, 0x0500, 0x0600, 0x0700, 0x0800, 0x0900, 0x0A00, 0x0B00, 0x0C00, 0x0D00,
        0x0E00, 0x0F00].map (decodeTableWord 16) =
      [.rdCtrl, .rdStat, .rdPala, .rdPald, .rdFblo, .rdFbhi, .rdFbext, .rdHrlo, .rdHrhi, .rdVrlo, .rdVrhi, .rdPfmt,
        .rdDmac, .rdLoff, .rdSadr, .rdCurs].map some := by decide +kernel

/-- The sixteen write rows, with the data bytes of V22, V26, V6, P1, V32, V28, V33, V31. -/
theorem test_decode_writes :
    [0x10E3, 0x11FF, 0x120A, 0x1312, 0x1400, 0x1560, 0x1601, 0x1780, 0x1802, 0x19E0, 0x1A01, 0x1B03, 0x1CFF, 0x1D50,
        0x1E10, 0x1FA5].map (decodeTableWord 16) =
      [.wrCtrl 0xE3, .wrStat 0xFF, .wrPala 0x0A, .wrPald 0x12, .wrFblo 0x00, .wrFbhi 0x60, .wrFbext 0x01, .wrHrlo 0x80,
        .wrHrhi 0x02, .wrVrlo 0xE0, .wrVrhi 0x01, .wrPfmt 0x03, .wrDmac 0xFF, .wrLoff 0x50, .wrSadr 0x10,
        .wrCurs 0xA5].map some := by decide +kernel

/-- The RAW words of V1, and the two ends of the window. -/
theorem test_decode_raw_words :
    decode 0x300 0x10310FF = .ignoreMiss .wr 0x0310 0xFF ∧ decode 0x300 0x102FFAA = .ignoreMiss .wr 0x02FF 0xAA ∧
      decode 0x300 0x2030000 = .ignoreAen .rd 0x0300 0x00 ∧ decode 0x300 0x30300FF = .ignoreAen .wr 0x0300 0xFF ∧
      decode 0x300 0x0830000 = .ignoreMiss .rd 0x8300 0x00 ∧ decode 0x300 0x1030001 = .wrCtrl 0x01 ∧
      decode 0x300 0x1030FA5 = .wrCurs 0xA5 ∧ decode 0x300 0x0030C00 = .rdDmac := by decide +kernel

/-- The two RAW rows of the opcode table, and words with bits above their format. -/
theorem test_decode_raw_rows :
    decodeTableWord 32 0x2000000 = some (.ignoreAen .rd 0 0) ∧ decodeTableWord 32 0 = some (.ignoreMiss .rd 0 0) ∧
      decodeTableWord 16 0x2000 = none ∧ decodeTableWord 32 0x4000000 = none := by decide +kernel

theorem test_encode_written_out :
    encode 0x300 (.wrCurs 0xA5) = 0x1030FA5 ∧ encode 0x300 .rdDmac = 0x0030C00 ∧
      encode 0x300 (.ignoreAen .wr 0x0300 0xFF) = 0x30300FF ∧ encodeReg (.wrDmac 0xFF) = some 0x1CFF := by decide +kernel

/-! ### The register operations (V20 to V33, V40 to V42) -/

/-- V20. -/
theorem test_reads_after_reset :
    drives .rdCtrl State.reset = some 0x00 ∧ drives .rdStat State.reset = some 0x00 ∧
      drives .rdDmac State.reset = some 0x01 ∧ drives .rdCurs State.reset = some 0x00 := by decide +kernel

/-- V21. -/
theorem test_rdDmac_after_one_tick : drives .rdDmac (tick false State.reset) = some 0x05 := by decide +kernel

/-- V22. -/
theorem test_wrCtrl_stores_and_requests :
    (ran (.wrCtrl 0xE3) State.reset).regs.timingResetPending = true ∧
      drives .rdCtrl (ran (.wrCtrl 0xE3) State.reset) = some 0xE3 := by decide +kernel

/-- V23. -/
theorem test_wrCtrl_does_not_cancel :
    (ran (.wrCtrl 0x01) (ran (.wrCtrl 0x03) State.reset)).regs.timingResetPending = true := by decide +kernel

/-- V24. -/
theorem test_rdStat_packs_its_bits :
    drives .rdStat
      { State.reset with
        regs := { State.reset.regs with ctrl := 0x01 }
        inputs := { State.reset.inputs with linkActiveIn := true }
        pix := { State.reset.pix with vsyncOut := true } } = some 0x0D := by decide +kernel

/-- V25. -/
theorem test_rdStat_hsync_is_bit_1 :
    drives .rdStat { State.reset with pix := { State.reset.pix with hsyncOut := true } } = some 0x02 := by
  decide +kernel

/-- V26. -/
theorem test_wrStat_does_nothing :
    let t := ran (.wrStat 0xFF) frame70
    t.regs.ctrl = 0x01 ∧ t.regs.sh = frame70.regs.sh ∧ t.faults = frame70.faults ∧ t.out = [] := by decide +kernel

/-- V27, for any `WO_READ`: the value is that of the offset and the register side. -/
theorem test_write_only_reads :
    [Instr.rdPala, .rdPald, .rdFblo, .rdFbhi, .rdFbext, .rdHrlo, .rdHrhi, .rdVrlo, .rdVrhi, .rdPfmt, .rdLoff,
        .rdSadr].map (drives · State.reset) =
      [0x2, 0x3, 0x4, 0x5, 0x6, 0x7, 0x8, 0x9, 0xA, 0xB, 0xD, 0xE].map fun o =>
        some (Config.woRead o State.reset.regs) := rfl

/-- V28. -/
theorem test_wrDmac_stores_two_bits :
    drives .rdDmac (ran (.wrDmac 0xFF) (tick false State.reset)) = some 0x07 := by decide +kernel

/-- V30, in a block with the blit engine. -/
theorem test_wrDmac_clears_no_flag :
    let s : State :=
      { tick false State.reset with
        cfg := { Config.default with blitPresent := true }
        faults := { FaultRecord.clear with fBus := true, fCfg := true, fUnderrun := true, fBlit := true } }
    drives .rdDmac s = some 0xF5 ∧ drives .rdDmac (ran (.wrDmac 0xF1) s) = some 0xF5 := by decide +kernel

/-- Without the engine bits 7 and 3 read 0, whatever the state holds (47_arbiter_blit.md R278). -/
theorem test_rdDmac_without_the_engine :
    let s : State :=
      { State.reset with
        faults := { FaultRecord.clear with fBlit := true }
        blit := some { cmd := { src := 0, dst := 0, width := 1, height := 1, op := .fill }, pitch := 0, next := 0 } }
    drives .rdDmac s = some 0x01 ∧
      drives .rdDmac { s with cfg := { s.cfg with blitPresent := true } } = some 0x89 := by decide +kernel

/-- V31. -/
theorem test_cursor_control_is_a_plain_cell : drives .rdCurs (ran (.wrCurs 0xA5) State.reset) = some 0xA5 := by
  decide +kernel

/-- Each address-class write stores its own shadow byte (41_register_ops.md R172). -/
theorem test_shadow_writes_go_each_to_its_own_byte :
    (ran (.wrFblo 1) (ran (.wrFbhi 2) (ran (.wrFbext 3) (ran (.wrHrlo 4) (ran (.wrHrhi 5) (ran (.wrVrlo 6)
        (ran (.wrVrhi 7) (ran (.wrPfmt 8) (ran (.wrLoff 0x50) (ran (.wrSadr 0x10) State.reset)))))))))).regs.sh =
      { fbLo := 1, fbHi := 2, fbExt := 3, hresLo := 4, hresHi := 5, vresLo := 6, vresHi := 7, pfmt := 8,
        loff := 0x50, sadr := 0x10 } := by decide +kernel

/-- V33: the active descriptor waits. -/
theorem test_address_class_write_leaves_act : (ran (.wrSadr 0x10) frame70).pix.act.start = 0 := by decide +kernel

/-- A state with this cursor and this entry under it. -/
def cursorAt (i : Byte) (c : Channel) (e : Rgb) : State :=
  State.reset.withRegs
    { State.reset.regs with palIndex := i, palChannel := c, pal := paletteSet State.reset.regs.pal i e }

/-- V40, V41. -/
theorem test_wrPala_resets_the_cursor :
    let t := ran (.wrPala 0x20) (cursorAt 10 .blue { r := 1, g := 2, b := 3 })
    t.regs.palIndex = 32 ∧ t.regs.palChannel = .red ∧ paletteAt t.regs.pal 10 = { r := 1, g := 2, b := 3 } := by
  decide +kernel

/-- V42. -/
theorem test_wrPald_wraps_the_index :
    let t := ran (.wrPald 0x99) (cursorAt 255 .blue { r := 1, g := 2, b := 3 })
    t.regs.palIndex = 0 ∧ t.regs.palChannel = .red ∧ paletteAt t.regs.pal 255 = { r := 1, g := 2, b := 0x99 } := by
  decide +kernel

/-- V6: a partial triplet. -/
theorem test_wrPald_partial_triplet :
    let t := ran (.wrPald 0x34) (ran (.wrPald 0x12) (ran (.wrPala 0x0A) State.reset))
    t.regs.palIndex = 10 ∧ t.regs.palChannel = .blue ∧ paletteAt t.regs.pal 10 = { r := 0x12, g := 0x34, b := 0 } := by
  decide +kernel

/-- V1: an ignored cycle moves the engine only. -/
theorem test_ignored_cycle :
    (ran (.ignoreAen .wr 0x0300 0xFF) frame70).regs.ctrl = 0x01 ∧
      (ran (.ignoreAen .wr 0x0300 0xFF) frame70).bus = { bte := .ignore wrT, dataOut := none } ∧
      (ran (.ignoreMiss .wr 0x0310 0xFF) frame70).bus = { bte := .ignore wrT, dataOut := none } := by decide +kernel

/-! ### The bus engine (V8, V12, V13, V14) -/

/-- V8, its fourth step: the edge while busy is dropped. -/
theorem test_edge_while_busy_is_dropped :
    let s := State.reset.withBus { bte := .dispatchRead rdT, dataOut := some 0x21 }
    let t := after s (perform (.strobeFall { aen := false, kind := .rd, addr := 0x301, data := 0 }) s)
    t.bus = s.bus ∧ t.faults.busFaultCount = 1 ∧ t.faults.fBus = true ∧
      t.out = [.faultLog (.protocolTiming .edgeWhileBusy)] := by decide +kernel

/-- V12: the strobe rises first; the dispatch then drives nothing. -/
theorem test_rise_before_dispatch :
    let s := (inDecode rdT State.reset).withInputs { State.reset.inputs with rdLow := true }
    let t := after s (perform (.strobeRise .rd) s)
    t.faults.busFaultCount = 1 ∧ (after t (perform .bte t)).bus.dataOut = none ∧
      (after t (perform .bte t)).bus.bte = .dispatchRead { rdT with deasserted := true } := by decide +kernel

/-- V13: a write is applied all the same. -/
theorem test_write_after_the_rise_is_applied :
    let s := inDecode { wrT with addr := 0x30F, data := 0x5A, deasserted := true } State.reset
    (after s (perform .bte s)).regs.curs = 0x5A := by decide +kernel

/-- The step runs the placed instruction, by its table word. -/
theorem test_step_runs_the_placed_word :
    (after State.reset (step (State.reset.withFetchWord 16 0x1FA5))).regs.curs = 0xA5 ∧
      (after State.reset (step (State.reset.withFetchWord 16 0x0C00))).bus.dataOut = some 0x01 ∧
      (after State.reset (step (State.reset.withFetchWord 32 0x2000000))).bus.dataOut = none := by decide +kernel

/-! ### Resolve, the latch, the tick -/

/-- V4, its second and third row: 640 by 480 in 16bpp, the bound just met, and one byte more. -/
theorem test_resolve_bound_passes_at_equality :
    let sh : Shadow :=
      { Shadow.zero with fbHi := 0xA0, fbExt := 0x06, hresLo := 0x80, hresHi := 0x02, vresLo := 0xE0, vresHi := 0x01, pfmt := 3 }
    (resolve Config.default sh).map Descriptor.stride = some 1280 ∧
      resolve Config.default { sh with fbLo := 0x01 } = none := by decide +kernel

/-- V70, ticks 1 and 2. -/
theorem test_first_tick_of_the_frame :
    (tick false frame70).out = [.pixel (.rgb888 0x10 0x20 0x30)] ∧
      (tick false (tick false frame70)).out =
        [.pixel (.rgb888 0x10 0x20 0x30), .pixel (.rgb888 0x11 0x21 0x31)] ∧
      (tick false frame70).pix.curLine = [.index 0, .index 1, .index 2, .index 3] := by decide +kernel

/-- V70, tick 15, with V72's interrupt enable. -/
theorem test_vblank_tick :
    let s := at70 2 0 (frame70.withRegs { frame70.regs with ctrl := 0x21 })
    (tick false s).out = [.vblank, .irq] ∧ (tick false s).pix.line = 2 ∧ (tick false s).pix.col = 1 ∧
      (tick false s).pix.chain = .blk ∧ (tick false s).pix.inVblank = true := by decide +kernel

/-- V73: the restart at the frame start, in one tick. -/
theorem test_restart_at_frame_start :
    let s := at70 2 0 (frame70.withRegs { frame70.regs with ctrl := 0x03, timingResetPending := true })
    (tick false s).out = [.vblank, .pixel (.rgb888 0x10 0x20 0x30)] ∧ (tick false s).pix.line = 0 ∧
      (tick false s).regs.timingResetPending = false ∧ (tick false s).pix.inVblank = false := by decide +kernel

/-- V65: the mode is latched although the shadow bytes do not resolve. -/
theorem test_failed_latch :
    let s :=
      at70 2 0 (frame70.withRegs { frame70.regs with ctrl := 0x09, sh := { frame70.regs.sh with pfmt := 9 } })
    (tick false s).faults.fCfg = true ∧ (tick false s).pix.act = s.pix.act ∧ (tick false s).pix.actMode = 2 := by
  decide +kernel

/-- V94: an underrun on the first line shows blanks and is logged before the pixel. -/
theorem test_underrun_on_the_first_line :
    (tick true frame70).out = [.faultLog (.scanoutUnderrun 0), .pixel (.rgb888 0 0 0)] ∧
      (tick true frame70).faults.underrunCount = 1 := by decide +kernel

/-- V43: the reference lookup is at the emission; a lookup made ahead keeps the byte of its instant. -/
theorem test_palette_write_before_the_emission :
    let s := (at70 0 1 frame70).withPix { (at70 0 1 frame70).pix with curLine := [.index 0, .index 10] }
    let s := s.withRegs { s.regs with pal := paletteSet s.regs.pal 10 { r := 1, g := 2, b := 3 } }
    let w := fun s : State => ran (.wrPald 0xAA) (ran (.wrPala 0x0A) s)
    (tick false (w s)).out = [.pixel (.rgb888 0xAA 2 3)] ∧
      (tick false (w (after s (perform (.earlyLookup 1 .red) s)))).out = [.pixel (.rgb888 1 2 3)] := by decide +kernel

/-- V109's note: a host write between ticks 8 and 9 may show, if the byte is read late. -/
theorem test_late_read_takes_the_new_byte :
    let s := tick false (at70 1 0 frame70)
    let s := after s (perform (.hostMemWrite 0x105 0xEE) s)
    s.pix.curLine = [.index 4, .index 5, .index 6, .index 7] ∧
      (after s (perform (.lateRead 1) s)).pix.curLine = [.index 4, .index 0xEE, .index 6, .index 7] ∧
      goesOn (perform (.lateRead 0) s) = false := by decide +kernel

/-- V80 to V84. -/
theorem test_unpack :
    unpack .msbFirst [0xA0, 0xC0] .bpp1 10 = [1, 0, 1, 0, 0, 0, 0, 0, 1, 1].map .index ∧
      unpack .lsbFirst [0xA0, 0xC0] .bpp1 10 = [0, 0, 0, 0, 0, 1, 0, 1, 0, 0].map .index ∧
      unpack .msbFirst [0x1F, 0xA0] .bpp4 3 = [1, 15, 10].map .index ∧
      unpack .lsbFirst [0x1F, 0xA0] .bpp4 3 = [15, 1, 0].map .index ∧
      unpack .msbFirst [0x1F, 0xF8, 0xE0, 0x07] .bpp16 2 = [.direct (.rgb565 0xF81F), .direct (.rgb565 0x07E0)] ∧
      unpack .msbFirst [0x12, 0x34, 0x56] .bpp24 1 = [.direct (.rgb888 0x12 0x34 0x56)] := by decide +kernel

/-- V91: with LINE_REPEAT 2, output lines 4 and 5 share source line 2. -/
theorem test_line_repeat_shares_the_source_line :
    let cfg := { Config.default with timing := Vector.replicate 8 { small with lineRepeat := 2 } }
    let p := { State.reset.pix with
      act := { base := 0x10000, start := 0, stride := 1280, width := 640, height := 480, fmt := .bpp16 }, line := 4 }
    scanlineOf cfg p = { src := 0x10A00, len := 1280, count := 640, lineRepeat := 2 } ∧
      scanlineOf cfg { p with line := 5 } = scanlineOf cfg p := by decide +kernel

/-! ### The blit engine and the host window (V100 to V109) -/

/-- V102, V104: rejected. V103, V105: accepted. -/
theorem test_blit_bounds :
    let s := (blank70.withPix { blank70.pix with act := { blank70.pix.act with stride := 1280 } })
    let s := { s with cfg := { s.cfg with memCapacity := 0x100000 } }
    let go := fun c : BlitCmd => (after s (perform (.blitSubmit c) s))
    (go { src := 0, dst := 0xFFB00, width := 100, height := 2, op := .copy }).env.blitResult = some .boundsError ∧
      (go { src := 0, dst := 0xFFB00, width := 100, height := 2, op := .copy }).faults.fBlit = true ∧
      (go { src := 0x200000, dst := 0, width := 4, height := 1, op := .copy }).env.blitResult = some .boundsError ∧
      (go { src := 0x200000, dst := 0, width := 4, height := 1, op := .fill }).env.blitResult = some .success ∧
      (go { src := 0x200000, dst := 0, width := 0, height := 7, op := .copy }).blit = none := by decide +kernel

/-- V106, V107: the four destination bytes, in one slice. -/
theorem test_blit_copy_and_fill :
    let bytes := fun op => let s := blit106 op
      (List.range' 8 8).map (after s (perform (.blitSlice 4) s)).mem.read
    bytes .copy = [0x00, 0x01, 0x0A, 0x0B, 0x04, 0x05, 0x0E, 0x0F] ∧
      bytes .fill = [0x5A, 0x5A, 0x0A, 0x0B, 0x5A, 0x5A, 0x0E, 0x0F] := by decide +kernel

/-- V108. -/
theorem test_blit_xor :
    let s := (blit106 .xor).withMem [(0, 0xF0), (8, 0x3C)]
    let t := after s (perform (.blitSlice 1) s)
    t.mem = [(0, 0xF0), (8, 0xCC)] := by decide +kernel

/-- The canonical form is kept when a byte returns to what an unlisted address reads as (20_memory.md R63). -/
theorem test_host_window :
    let s := blank70
    (after s (perform (.hostMemWrite 0x104 0) s)).mem.length = 6 ∧
      (after s (perform (.hostMemWrite 0x104 0xEE) s)).mem.read 0x104 = 0xEE ∧
      goesOn (perform (.hostMemWrite 0x1000 0) s) = false := by decide +kernel

/-- V122, V123. -/
theorem test_reset_event :
    let s := (blit106 .copy).withFaults { FaultRecord.clear with fBus := true, busFaultCount := 9 }
    let t := after s (perform (.reset State.reset.regs.pal) s)
    t.blit = none ∧ t.mem = mem106 ∧ drives .rdDmac t = some 0x01 := by decide +kernel

/-! ### Witnesses: states and operands that meet the hypotheses of the statements -/

theorem test_small_reset_resolves (p : PixelSide) : PixelSide.afterReset smallCfg p = State.reset.pix := by
  have h : resolve smallCfg smallCfg.reset.sh = some Descriptor.zero := by decide +kernel
  simp only [PixelSide.afterReset, h]
  rfl

theorem test_reset_frame_ok : FrameOk smallCfg State.reset.pix where
  actFits := show _ ≤ _ by decide +kernel
  lineLt := by decide +kernel
  colLt := by decide +kernel
  curLength := rfl
  lastLength := rfl
  pixActive := by decide

/-- A sound state of the small block, from the frame's own conditions. -/
theorem test_sound_of_frame {s : State} (hc : s.cfg = smallCfg) (h : FrameOk smallCfg s.pix) : FrameInv s where
  cfgWf := by rw [hc]; decide +kernel
  resetOk := fun p => by rw [hc, test_small_reset_resolves]; exact test_reset_frame_ok
  frame := by rw [hc]; exact h

theorem test_frame70_is_sound : FrameInv frame70 :=
  test_sound_of_frame rfl
    { actFits := show _ ≤ _ by decide +kernel, lineLt := by decide +kernel, colLt := by decide +kernel,
      curLength := rfl, lastLength := rfl, pixActive := by decide }

theorem test_frame70_vblank_is_sound : FrameInv (at70 2 0 frame70) :=
  test_sound_of_frame rfl
    { actFits := show _ ≤ _ by decide +kernel, lineLt := by decide +kernel, colLt := by decide +kernel,
      curLength := rfl, lastLength := rfl, pixActive := by decide }

theorem test_frame70_last_position_is_sound : FrameInv (at70 4 6 frame70) :=
  test_sound_of_frame rfl
    { actFits := show _ ≤ _ by decide +kernel, lineLt := by decide +kernel, colLt := by decide +kernel,
      curLength := rfl, lastLength := rfl, pixActive := by decide }

theorem test_blank70_is_sound : FrameInv blank70 :=
  test_sound_of_frame rfl
    { actFits := show _ ≤ _ by decide +kernel, lineLt := by decide +kernel, colLt := by decide +kernel,
      curLength := rfl, lastLength := rfl, pixActive := fun h => by cases h }

theorem test_blit106_is_sound (op : BlitOp) : FrameInv (blit106 op) :=
  ⟨test_blank70_is_sound.1, test_blank70_is_sound.2, test_blank70_is_sound.3⟩

theorem test_blit106_memory : MemInv (blit106 .copy) where
  canonical := by decide +kernel
  inside := by decide +kernel

theorem test_blit106_blit (op : BlitOp) : BlitInv (blit106 op) where
  absent := fun h => by cases h
  jobOk := fun j h => by
    rcases h with h | h <;> cases h
    refine ⟨?_, ?_, ?_⟩ <;> cases op <;> decide +kernel

theorem test_witness_DecodeOfEncodeIsTheInstruction :
    (0x300#16 &&& 0x000F#16 = 0#16 ∧ (Instr.ignoreMiss .wr 0x310 0xFF).wf 0x300 = true) ∧
      (Instr.ignoreMiss .rd 0x2FF 0).wf 0x300 = true ∧ (Instr.ignoreAen .wr 0x300 0xFF).wf 0x300 = true ∧
      (Instr.wrCurs 0xA5).wf 0x300 = true := by decide

theorem test_witness_TableWordOfEveryInstructionDecodesToIt :
    (Instr.ignoreMiss .rd 0x8300 0).wf Config.default.base = true ∧ Instr.rdDmac.wf Config.default.base = true := by decide

theorem test_witness_WindowDecodeClassifiesEveryRawWord :
    (0x30300FF#26).getLsbD 25 = true ∧
      ((0x10310FF#26).getLsbD 25 = false ∧ (0x10310FF#26).extractLsb' 8 16 &&& 0xFFF0#16 ≠ 0x300#16) ∧
      ((0x102FFAA#26).getLsbD 25 = false ∧ (0x102FFAA#26).extractLsb' 8 16 &&& 0xFFF0#16 ≠ 0x300#16) ∧
      ((0x1030001#26).getLsbD 25 = false ∧ (0x1030001#26).extractLsb' 8 16 &&& 0xFFF0#16 = 0x300#16) ∧
      ((0x1030FA5#26).getLsbD 25 = false ∧ (0x1030FA5#26).extractLsb' 8 16 &&& 0xFFF0#16 = 0x300#16) := by
  decide +kernel

theorem test_witness_StepRunsTheDecodedInstruction :
    let s := withAgenda [.bte] (inDecode wrT frame70)
    (withAgenda [.tick false, .bte] frame70).env.agenda = .tick false :: [.bte] ∧
      s.env.agenda = .bte :: [] ∧ s.bus.bte = .decode wrT ∧
      decode s.cfg.base (rawBits wrT.aen wrT.kind wrT.addr wrT.data) = .wrCtrl 0x01 ∧
      (Instr.wrCtrl 0x01).wf s.cfg.base = true := by decide +kernel

theorem test_witness_EdgeInIdleIsAccepted :
    frame70.inputs.rdLow = false ∧ frame70.inputs.wrLow = false ∧ frame70.bus.bte = .idle := by decide

theorem test_witness_EdgeWhileBusyIsDroppedAndRecorded :
    let s := inDecode wrT frame70
    s.inputs.rdLow = false ∧ s.inputs.wrLow = false ∧ s.bus.bte ≠ .idle := by decide

/-- A state in which both strobes' cycles may end, with a byte driven. -/
def strobesLow : State :=
  { frame70 with
    inputs := { rdLow := true, wrLow := true, linkActiveIn := true }
    bus := { bte := .dispatchRead rdT, dataOut := some 0x21 } }

theorem test_witness_RiseBeforeDispatchIsRecorded :
    let s := inDecode rdT strobesLow
    let q := inDecode wrT strobesLow
    (s.inputs.low rdT.kind = true ∧ s.bus.bte = .decode rdT ∧ rdT.kind = .rd ∧ s.bus.dataOut = some 0x21) ∧
      (s.withBus { bte := .decode rdT, dataOut := none }).bus.dataOut = none ∧
      q.inputs.low wrT.kind = true ∧ q.bus.bte = .decode wrT ∧ wrT.kind = .wr := by decide

theorem test_witness_RiseReleasesTheDataLines :
    strobesLow.inputs.rdLow = true ∧ strobesLow.inputs.wrLow = true ∧
      (∀ k t, strobesLow.bus.bte = .decode t → t.kind ≠ k) ∧ strobesLow.bus.dataOut = some 0x21 :=
  ⟨rfl, rfl, fun _ _ h => (by cases h), rfl⟩

theorem test_witness_RetireReturnsToIdle :
    strobesLow.bus.bte = .dispatchRead rdT ∧
      (strobesLow.withBus { bte := .dispatchWrite wrT, dataOut := none }).bus.bte = .dispatchWrite wrT ∧
      (strobesLow.withBus { bte := .ignore wrT, dataOut := none }).bus.bte = .ignore wrT := by decide

/-- The four moves of a full cycle. -/
def fullCycle (c : Cycle) : List Event := [.strobeFall c, .bte, .bte, .strobeRise c.kind]

theorem test_witness_IgnoredFullCycleChangesNothing :
    let s := withAgenda (fullCycle { aen := false, kind := .wr, addr := 0x310, data := 0xFF }) frame70
    (s.env.agenda =
        .strobeFall { aen := false, kind := .wr, addr := 0x310, data := 0xFF } :: .bte :: .bte :: .strobeRise .wr :: [] ∧
      s.inputs.rdLow = false ∧ s.inputs.wrLow = false ∧ s.bus.bte = .idle ∧ s.bus.dataOut = none ∧
      s.cfg.base &&& 0x000F#16 = 0#16) ∧
      (0x2FF#16).toNat < s.cfg.base.toNat ∧ s.cfg.base.toNat + 15 < (0x310#16).toNat := by decide +kernel

theorem test_witness_FullReadCycleDeliversControl :
    let s :=
      withAgenda
        [.strobeFall { aen := false, kind := .rd, addr := frame70.cfg.base, data := 0 }, .bte, .strobeRise .rd, .bte]
        frame70
    s.env.agenda =
        .strobeFall { aen := false, kind := .rd, addr := s.cfg.base, data := 0 } :: .bte :: .strobeRise .rd ::
          .bte :: [] ∧
      s.inputs.rdLow = false ∧ s.inputs.wrLow = false ∧ s.bus.bte = .idle ∧ s.bus.dataOut = none ∧
      s.cfg.base &&& 0x000F#16 = 0#16 := by decide +kernel

theorem test_witness_StoredCellsReadAsStored : (inDecode rdT frame70).bus.bte = .decode rdT := rfl

theorem test_witness_ComputedReadsShowLiveState : (inDecode rdT blank70).bus.bte = .decode rdT := rfl

theorem test_witness_WriteOnlyOffsetsReadAsWoRead :
    (inDecode { rdT with deasserted := true } frame70).bus.bte = .decode { rdT with deasserted := true } := rfl

theorem test_witness_PlainWritesStoreTheirBits : (inDecode wrT frame70).bus.bte = .decode wrT := rfl

theorem test_witness_PaletteAddressWriteResetsTheCursor : (inDecode wrT blank70).bus.bte = .decode wrT := rfl

theorem test_witness_PaletteDataWriteFillsTheCursorsChannel :
    ∀ c : Channel,
      let s := inDecode wrT (cursorAt 255 c { r := 1, g := 2, b := 3 })
      s.bus.bte = .decode wrT ∧ s.regs.palChannel = c := fun _ => ⟨rfl, rfl⟩

theorem test_witness_AddressClassWritesStoreOneShadowByte :
    (inDecode { wrT with addr := 0x30E } frame70).bus.bte = .decode { wrT with addr := 0x30E } := rfl

theorem test_witness_IgnoredCyclesMoveOnlyTheEngine :
    (inDecode { wrT with aen := true } frame70).bus.bte = .decode { wrT with aen := true } := rfl

theorem test_witness_BusOperationsTouchOnlyRegistersAndBus :
    Instr.rdCurs.operation = some (.rd, .curs, 0) ∧ (Instr.wrCurs 0xA5).operation = some (.wr, .curs, 0xA5) ∧
      (Instr.ignoreAen .wr 0x300 0xFF).operation = none := by decide

theorem test_witness_TripletAndWrapLaws :
    (List.replicate 256 ({ r := 1, g := 2, b := 3 } : Rgb)).length = 256 ∧ frame70.regs.palChannel = .red ∧
      (1 : Byte) ≠ 0 := by decide +kernel

theorem test_witness_OnlyPaletteDataWritesChangeTheTable :
    (let s := inDecode { wrT with addr := 0x303, data := 0x99 } frame70
     ∃ t, perform .bte s = .next t ∧ t.regs.pal ≠ s.regs.pal ∧ t.regs.palChannel ≠ s.regs.palChannel) ∧
    (let s := inDecode { wrT with addr := 0x302, data := 0x99 } frame70
     ∃ t, perform .bte s = .next t ∧ t.regs.palIndex ≠ s.regs.palIndex) ∧
    ∀ p, Event.bte ≠ .reset p :=
  ⟨⟨_, rfl, by decide +kernel, by decide +kernel⟩, ⟨_, rfl, by decide +kernel⟩, fun _ h => by cases h⟩

theorem test_witness_PaletteCursorCountsTheDataWrites : frame70.regs.palChannel = .red := rfl

theorem test_witness_ResolveInFull :
    4 < ({ Shadow.zero with pfmt := 5 } : Shadow).pfmt.toNat ∧ 4 < ({ Shadow.zero with pfmt := 0xFF } : Shadow).pfmt.toNat ∧
      ∀ q ∈ [0, 1, 2, 3, 4], ({ Shadow.zero with pfmt := BitVec.ofNat 8 q } : Shadow).pfmt.toNat = q := by decide

theorem test_witness_ActiveDescriptorChangesOnlyAtVblank :
    (∃ t, perform (.tick false) frame70 = .next t) ∧ (∀ p, Event.tick false ≠ .reset p) ∧
      (∀ u, Event.tick false = .tick u →
        ¬ (frame70.pix.col = 0 ∧ frame70.pix.line = activeLines frame70.cfg frame70.pix)) ∧
      (let s := at70 2 0 frame70
       (s.pix.col = 0 ∧ s.pix.line = activeLines s.cfg s.pix) ∧ (∃ t, perform (.linkActive true) s = .next t) ∧
        (∀ p, Event.linkActive true ≠ .reset p) ∧ ∀ u, Event.linkActive true ≠ .tick u) :=
  ⟨⟨_, rfl⟩, fun _ h => (by cases h), fun _ _ => by decide +kernel, by decide +kernel, ⟨_, rfl⟩,
    fun _ h => (by cases h), fun _ h => (by cases h)⟩

theorem test_witness_VblankTickLatchesTheShadow :
    let s := at70 2 0 frame70
    (s.pix.col = 0 ∧ s.pix.line = activeLines s.cfg s.pix ∧ resolve s.cfg s.regs.sh = some s.pix.act) ∧
      resolve s.cfg { s.regs.sh with pfmt := 9 } = none := by decide +kernel

theorem test_witness_VblankEventPlacesThePosition :
    let s := at70 2 0 (frame70.withRegs { frame70.regs with timingResetPending := true })
    (s.regs.timingResetPending = true ∧ s.cfg.restartPos = .frameStart) ∧ frame70.regs.timingResetPending = false ∧
      ({ s with cfg := { s.cfg with restartPos := .vblankStart } } : State).cfg.restartPos = .vblankStart := by
  decide +kernel

theorem test_witness_TickAdvancesThePositionModuloTheFrame :
    FrameInv frame70 ∧ FrameInv (at70 2 0 frame70) ∧ FrameInv (at70 4 6 frame70) :=
  ⟨test_frame70_is_sound, test_frame70_vblank_is_sound, test_frame70_last_position_is_sound⟩

/-- The frame of V70 at any column of its first line. -/
theorem test_frame70_column_is_sound {c : Nat} (h : c < totalCols smallCfg frame70.pix) : FrameInv (at70 0 c frame70) :=
  have f := test_frame70_is_sound.frame
  test_sound_of_frame rfl
    { actFits := f.actFits, lineLt := f.lineLt, colLt := h, curLength := rfl, lastLength := rfl,
      pixActive := fun h => by cases h }

theorem test_witness_TickEmitsEdgesAndPixel :
    (let s := at70 0 3 frame70
     FrameInv s ∧ s.pix.col ≠ 0 ∧ s.pix.line < activeLines s.cfg s.pix ∧ s.pix.col < s.pix.act.width.toNat ∧
      s.regs.ctrl.getLsbD 0 = true ∧ ∀ q ∈ s.env.looked, q.1 ≠ s.pix.col) ∧
    (let s := at70 0 5 frame70
     FrameInv s ∧ s.pix.col ≠ 0 ∧ ¬ (s.pix.line < activeLines s.cfg s.pix ∧ s.pix.col < s.pix.act.width.toNat) ∧
      (tick false s).out = s.out ++ [.hsyncEdge true]) ∧
    (let s := at70 0 0 frame70
     FrameInv s ∧ s.pix.col = 0 ∧ s.pix.line ≠ activeLines s.cfg s.pix ∧
      (armLine false s).pix.line < activeLines s.cfg s.pix ∧ 0 < s.pix.act.width.toNat) ∧
    (let s := at70 3 0 frame70
     s.pix.col = 0 ∧ (tick false s).out = s.out ++ [.vsyncEdge true]) ∧
    (let s := at70 2 0 frame70
     FrameInv s ∧ s.pix.col = 0 ∧ s.pix.line = activeLines s.cfg s.pix) :=
  ⟨⟨test_frame70_column_is_sound (by decide +kernel), by decide +kernel⟩,
    ⟨test_frame70_column_is_sound (by decide +kernel), by decide +kernel⟩,
    ⟨test_frame70_column_is_sound (by decide +kernel), by decide +kernel⟩, by decide +kernel,
    test_frame70_vblank_is_sound, by decide +kernel⟩

theorem test_witness_EnablesDoNotStopTheTimingGenerator :
    (0xE2 : Byte).extractLsb' 2 3 = frame70.regs.ctrl.extractLsb' 2 3 := by decide +kernel

theorem test_witness_EnablesTakeHoldOnlyAtALineArm : (at70 0 1 frame70).pix.col ≠ 0 := by decide

theorem test_witness_LineArmSetsTheChain :
    ({ frame70.regs with chainEn := false } : RegSide).chainEn = false ∧
      (frame70.regs.chainEn = true ∧ frame70.pix.line < activeLines frame70.cfg frame70.pix ∧
        0 < frame70.pix.act.width.toNat) ∧
      (let s := at70 2 0 frame70
       s.regs.chainEn = true ∧ ¬ (s.pix.line < activeLines s.cfg s.pix ∧ 0 < s.pix.act.width.toNat)) ∧
      (armLine false (at70 2 0 frame70)).pix.fetchOn = false := by decide +kernel

theorem test_witness_UnderrunRepeatsTheLastValidLine :
    let s := at70 1 0 frame70
    s.pix.col = 0 ∧ s.pix.line < activeLines s.cfg s.pix ∧ 0 < s.pix.act.width.toNat ∧ s.regs.chainEn = true ∧
      s.regs.ctrl.getLsbD 0 = true := by decide +kernel

theorem test_witness_FetchedLineShowsMemory :
    ∀ fmt ∈ [PixelFormat.bpp1, .bpp4, .bpp8, .bpp16, .bpp24],
      let s := (at70 1 0 frame70).withPix { (at70 1 0 frame70).pix with act := { frame70.pix.act with fmt := fmt } }
      s.pix.col = 0 ∧ s.pix.line < activeLines s.cfg s.pix ∧ 0 < s.pix.act.width.toNat ∧ s.regs.chainEn = true ∧
        s.regs.ctrl.getLsbD 0 = true ∧ s.pix.act.base.toNat + 4 + 11 < s.cfg.memCapacity := by decide +kernel

/-- V90's source line, in 16bpp: two bytes make a pixel. -/
theorem test_fetched_line_16bpp :
    let s := frame70.withPix { frame70.pix with act := { frame70.pix.act with width := 2, fmt := .bpp16 } }
    (tick false s).pix.curLine = [.direct (.rgb565 0x0100), .direct (.rgb565 0x0302)] := by decide +kernel

theorem test_witness_LateReadTakesTheByteAsItStands :
    let s := tick false frame70
    s.env.lineBytes = some [0, 1, 2, 3] ∧
      (1 < [0, 1, 2, 3].length ∧ 0 < s.pix.col ∧ s.pix.col ≤ firstPixel s.pix.act.fmt 1 ∧ 0x101 < s.cfg.memCapacity) ∧
      ¬ (s.pix.col ≤ firstPixel s.pix.act.fmt 0) ∧ ¬ (4 < [0, 1, 2, 3].length) := by decide +kernel

theorem test_witness_EarlyLookupFixesOneChannelOfOnePixel :
    let s := tick false frame70
    (0 < s.pix.col ∧ s.pix.col ≤ 2 ∧ s.pix.curLine[2]? = some (.index 2) ∧ s.env.looked = []) ∧
      ∀ j ∈ [1, 2],
        let t := at70 0 j (after s (perform (.earlyLookup 2 .green) s))
        t.env.looked = [(2, .green, 0)] ∧ 0 < j ∧ t.pix.col = j ∧ t.pix.curLine[j]? = some (.index (BitVec.ofNat 8 j)) ∧
          t.pix.line < activeLines t.cfg t.pix ∧ j < t.pix.act.width.toNat ∧ t.regs.ctrl.getLsbD 0 = true := by
  decide +kernel

theorem test_witness_UnpackPlacesThePixels :
    (9 < 10 ∧ [0xA0#8, 0xC0#8][9 / 8]? = some 0xC0#8) ∧ (2 < 3 ∧ [0x1F#8, 0xA0#8][2 / 2]? = some 0xA0#8) ∧
      (1 < 2 ∧ [0x1F#8, 0xF8#8, 0xE0#8, 0x07#8][2 * 1]? = some 0xE0#8 ∧
        [0x1F#8, 0xF8#8, 0xE0#8, 0x07#8][2 * 1 + 1]? = some 0x07#8) ∧
      (0 < 1 ∧ [0x12#8, 0x34#8, 0x56#8][3 * 0]? = some 0x12#8 ∧ [0x12#8, 0x34#8, 0x56#8][3 * 0 + 1]? = some 0x34#8 ∧
        [0x12#8, 0x34#8, 0x56#8][3 * 0 + 2]? = some 0x56#8) := by decide

theorem test_witness_PixelTransferEndsAtTheFirstBlankColumn :
    (frame70.pix.line < activeLines frame70.cfg frame70.pix ∧ 0 < frame70.pix.act.width.toNat ∧ frame70.pix.col = 0) ∧
      (0 < (at70 0 3 frame70).pix.col ∧ (at70 0 3 frame70).pix.col < frame70.pix.act.width.toNat) ∧
      ((at70 0 4 frame70).pix.col = frame70.pix.act.width.toNat ∧
        ((at70 0 4 frame70).withPix { (at70 0 4 frame70).pix with chain := .pix }).pix.chain = .pix) ∧
      (at70 0 4 frame70).pix.chain = .stopped := by decide +kernel

theorem test_witness_BusySubmissionChangesNothing :
    (frame70.cfg.blitPresent = true ∧ frame70.regs.blitEn = false) ∧
      (blit106 .copy).cfg.blitPresent = true ∧ (blit106 .copy).regs.blitEn = true ∧ (blit106 .copy).blit ≠ none := by
  decide +kernel

theorem test_witness_OutOfBoundsBlitIsRejected :
    (blank70.cfg.blitPresent = true ∧ blank70.regs.blitEn = true ∧ blank70.blit = none) ∧
      (let c : BlitCmd := { src := 0, dst := 0xFFB, width := 2, height := 2, op := .fill }
       0 < c.width ∧ 0 < c.height ∧
        blank70.cfg.memCapacity < c.dst + (c.height - 1) * blank70.pix.act.stride + c.width) ∧
      (let c : BlitCmd := { src := 0xFFB, dst := 0, width := 2, height := 2, op := .xor }
       0 < c.width ∧ 0 < c.height ∧ c.op ≠ .fill ∧
        blank70.cfg.memCapacity < c.src + (c.height - 1) * blank70.pix.act.stride + c.width) := by decide +kernel

theorem test_witness_BlitInsideMemoryIsAccepted :
    (blank70.cfg.blitPresent = true ∧ blank70.regs.blitEn = true ∧ blank70.blit = none) ∧
      (({ src := 0, dst := 0, width := 0, height := 7, op := .copy } : BlitCmd).width * 7 = 0) ∧
      (let c : BlitCmd := { src := 0xFFA, dst := 0xFFA, width := 2, height := 2, op := .fill }
       0 < c.width ∧ 0 < c.height ∧ c.op = .fill ∧
        c.dst + (c.height - 1) * blank70.pix.act.stride + c.width ≤ blank70.cfg.memCapacity) ∧
      (let c := (job106 .copy).cmd
       c.dst + (c.height - 1) * blank70.pix.act.stride + c.width ≤ blank70.cfg.memCapacity ∧
        c.src + (c.height - 1) * blank70.pix.act.stride + c.width ≤ blank70.cfg.memCapacity ∧
        ∀ r c' r' c'', r < c.height → r' < c.height → c' < c.width → c'' < c.width →
          c.src + r * blank70.pix.act.stride + c' ≠ c.dst + r' * blank70.pix.act.stride + c'') := by
  refine ⟨by decide +kernel, by decide, by decide +kernel, by decide +kernel, by decide +kernel, ?_⟩
  intro r c' r' c'' h1 h2 h3 h4
  simp only [job106, show blank70.pix.act.stride = 4 from rfl] at h1 h2 h3 h4 ⊢
  omega

theorem test_witness_SlicesNeverOverlapThePixelUnit :
    FrameInv (blit106 .copy) ∧ ∃ t, perform (.blitSlice 4) (blit106 .copy) = .next t :=
  ⟨test_blit106_is_sound .copy, _, rfl⟩

theorem test_witness_SlicesComposeWhateverTheCut (op : BlitOp) :
    let s := blit106 op
    MemInv s ∧ BlitInv s ∧ s.blit = some (job106 op) ∧ (job106 op).cmd.op = op ∧
      (job106 op).cmd.width ≤ (job106 op).pitch ∧ (∃ v, perform (.blitSlice (1 + 3)) s = .next v) ∧
      ∃ t v, perform (.blitSlice 1) s = .next t ∧ perform (.blitSlice 3) t = .next v :=
  ⟨⟨test_blit106_memory.1, test_blit106_memory.2⟩, test_blit106_blit op, rfl, rfl, (by decide : 2 ≤ 4),
    by cases op <;> exact ⟨_, rfl⟩, by cases op <;> exact ⟨_, _, rfl, rfl⟩⟩

theorem test_witness_SliceWritesOnlyItsDestinationBytes :
    (blit106 .copy).blit = some (job106 .copy) ∧ ∃ t, perform (.blitSlice 1) (blit106 .copy) = .next t :=
  ⟨rfl, _, rfl⟩

theorem test_witness_CompletedCopyMatchesItsSource :
    MemInv (blit106 .copy) ∧ BlitInv (blit106 .copy) ∧ (blit106 .copy).blit = some (job106 .copy) ∧
      (job106 .copy).cmd.op = .copy ∧ (job106 .copy).next = 0 ∧ (blit106 .copy).pix.inVblank = true :=
  ⟨test_blit106_memory, test_blit106_blit .copy, rfl, rfl, rfl, rfl⟩

theorem test_witness_OneByteSliceAppliesTheOperation (op : BlitOp) :
    MemInv (blit106 op) ∧ BlitInv (blit106 op) ∧ (blit106 op).blit = some (job106 op) ∧ (job106 op).cmd.op = op ∧
      (blit106 op).pix.inVblank = true :=
  ⟨⟨test_blit106_memory.1, test_blit106_memory.2⟩, test_blit106_blit op, rfl, rfl, rfl⟩

theorem test_witness_HostWindowWritesOneByte :
    frame70.cfg.hostMemWindowPresent = true ∧ frame70.mem.wf = true ∧ 0xFFF < frame70.cfg.memCapacity ∧
      frame70.cfg.memCapacity ≤ 0x1000 := by decide +kernel

theorem test_witness_ResetEventGivesTheResetTable :
    frame70.cfg.reset = ResetValues.default ∧ (resolve frame70.cfg frame70.cfg.reset.sh).isSome = true ∧
      (let c : Config :=
        { smallCfg with reset := { ResetValues.default with ctrl := 0x01, sh := frame70.regs.sh, line := 1 } }
       resolve c c.reset.sh = some frame70.pix.act) := by decide +kernel

theorem test_witness_OutputOnlyGrowsAndParametersStay :
    ∃ t, step (withAgenda [.tick false] frame70) = .next t := ⟨_, rfl⟩

theorem test_witness_FlagsAndCountersNeverDecrease :
    let s := frame70.withFaults
      { fBus := true, fCfg := true, fUnderrun := true, fBlit := true, busFaultCount := 4, underrunCount := 2 }
    (∃ t, perform (.tick true) s = .next t) ∧ (∀ p, Event.tick true ≠ .reset p) ∧ s.faults.fBus = true ∧
      s.faults.fCfg = true ∧ s.faults.fUnderrun = true ∧ s.faults.fBlit = true :=
  ⟨⟨_, rfl⟩, fun _ h => (by cases h), rfl, rfl, rfl, rfl⟩

theorem test_witness_NothingHaltsTheMachine :
    frame70.env.agenda = [] ∧ (withAgenda [.tick true] frame70).env.agenda = .tick true :: [] ∧
      (withAgenda [.bte] strobesLow).env.agenda = .bte :: [] ∧ (withAgenda [.bte] strobesLow).bus.bte ≠ .idle :=
  ⟨rfl, rfl, rfl, fun h => by cases h⟩

theorem test_witness_EveryStepKeepsMemoryCanonical :
    MemInv (withAgenda [.blitSlice 3] (blit106 .copy)) ∧
      ∃ t, step (withAgenda [.blitSlice 3] (blit106 .copy)) = .next t :=
  ⟨⟨test_blit106_memory.1, test_blit106_memory.2⟩, _, rfl⟩

theorem test_witness_EveryStepKeepsTheBusDiscipline :
    let s := withAgenda [.bte] ((inDecode rdT frame70).withInputs { rdLow := true, wrLow := false, linkActiveIn := false })
    BusInv s ∧ ∃ t, step s = .next t :=
  ⟨⟨by decide, by decide, fun t h _ => by cases h; rfl, rfl, fun t h => by cases h⟩, _, rfl⟩

theorem test_witness_EveryStepKeepsTheFrameSound :
    FrameInv (withAgenda [.tick false] (at70 2 0 frame70)) ∧
      ∃ t, step (withAgenda [.tick false] (at70 2 0 frame70)) = .next t :=
  ⟨⟨test_frame70_vblank_is_sound.1, test_frame70_vblank_is_sound.2, test_frame70_vblank_is_sound.3⟩, _, rfl⟩

theorem test_witness_EveryStepKeepsTheBlitSound :
    BlitInv (withAgenda [.blitSlice 3] (blit106 .xor)) ∧
      ∃ t, step (withAgenda [.blitSlice 3] (blit106 .xor)) = .next t :=
  ⟨⟨(test_blit106_blit .xor).1, (test_blit106_blit .xor).2⟩, _, rfl⟩

end Sys2Proof.Tests
end

section
/-! Proofs: the window decode of a RAW word (30_encoding.md R92). -/

namespace Sys2Proof

open Sys2Proof.Machine

/-! ### The three classes of sampled lines -/

theorem inWindow_iff_masked_eq {base a : BusAddr} : inWindow base a = true ↔ a &&& 0xFFF0#16 = base := by
  simp only [inWindow, decodeMask, beq_iff_eq]

theorem decodeCycle_of_aen (base : BusAddr) {c : Cycle} (haen : c.aen = true) :
    decodeCycle base c = .ignoreAen c.kind c.addr c.data :=
  if_pos haen

theorem decodeCycle_of_outside {base : BusAddr} {c : Cycle} (haen : c.aen = false)
    (hout : inWindow base c.addr = false) : decodeCycle base c = .ignoreMiss c.kind c.addr c.data := by
  simp [decodeCycle, haen, hout]

theorem decodeCycle_of_inside {base : BusAddr} {c : Cycle} (haen : c.aen = false)
    (hin : inWindow base c.addr = true) : decodeCycle base c = decodeReg (regWordOf c) := by
  simp [decodeCycle, haen, hin]

/-! ### The REG word of a RAW word -/

/-- KIND is kept as its bit (R91). -/
theorem kindOf_bit (b : Bool) : (kindOf b).bit = BitVec.ofBool b := by cases b <;> rfl

theorem ofBool_getLsbD_kind (w : RawWord) : BitVec.ofBool (w.getLsbD 24) = w.extractLsb' 24 1 := by
  apply BitVec.eq_of_getLsbD_eq; intro i hi
  obtain rfl : i = 0 := by omega
  simp

/-- The REG word of the sampled lines is cut straight out of the RAW word (R92). -/
theorem regWordOf_cycleOf (w : RawWord) :
    regWordOf (cycleOf w) =
      w.extractLsb' 24 1 ++ (w.extractLsb' 8 16 &&& 0x000F#16).extractLsb' 0 4 ++ w.extractLsb' 0 8 := by
  have hoff (a : BusAddr) : a.setWidth 4 = a.extractLsb' 0 4 := BitVec.setWidth_eq_extractLsb' (by decide)
  simp only [regWordOf, regBits, cycleOf, offsetMask, hoff, kindOf_bit, ofBool_getLsbD_kind]

/-- Settles O4: each class of R92 is the class of the sampled lines, at the fields of the word. -/
theorem windowDecodeClassifiesEveryRawWord : Obligations.WindowDecodeClassifiesEveryRawWord := by
  intro base w
  refine ⟨fun haen => ?aen, fun haen hout => ?outside, fun haen hin => ?inside⟩
  case aen => exact decodeCycle_of_aen (c := cycleOf w) base haen
  case outside =>
    have hmiss : inWindow base (cycleOf w).addr = false :=
      Bool.eq_false_iff.mpr (inWindow_iff_masked_eq.not.mpr hout)
    exact decodeCycle_of_outside (c := cycleOf w) haen hmiss
  case inside =>
    have hhit : inWindow base (cycleOf w).addr = true := inWindow_iff_masked_eq.mpr hin
    rw [← regWordOf_cycleOf w]
    exact decodeCycle_of_inside (c := cycleOf w) haen hhit

end Sys2Proof
end

section
/-! Proofs: the falling edge and the retire of the bus engine (40_bus_engine.md R122, R129, R130). -/

namespace Sys2Proof

open Sys2Proof.Machine

/-! ### The falling edge -/

/-- From both strobes high, the strobe that falls is the one that is low (R120). -/
theorem setStrobe_low_of_both_high {i : Inputs} {k : Kind} (hrd : i.rdLow = false) (hwr : i.wrLow = false) :
    i.setStrobe k true = { i with rdLow := decide (k = .rd), wrLow := decide (k = .wr) } := by
  obtain ⟨rdLow, wrLow, link⟩ := i
  subst hrd hwr
  cases k <;> rfl

/-- With both strobes high a falling edge is legal, and the engine meets it with the strobe low (R120). -/
theorem perform_strobeFall_of_both_high {s : State} {c : Cycle} (hrd : s.inputs.rdLow = false)
    (hwr : s.inputs.wrLow = false) :
    perform (.strobeFall c) s =
      .next (acceptEdge c
        (s.withInputs { s.inputs with rdLow := decide (c.kind = .rd), wrLow := decide (c.kind = .wr) })) := by
  simp only [perform, strobeFall, hrd, hwr, Bool.or_self, Bool.false_eq_true, if_false,
    setStrobe_low_of_both_high hrd hwr]

/-- A ProtocolTimingFault sets the bus flag, counts once and is logged last; the rest of the state stays (R286). -/
theorem raise_protocolTiming (f : TimingCause) (s : State) :
    raise (.protocolTiming f) s =
      { s with
        faults := { s.faults with fBus := true, busFaultCount := s.faults.busFaultCount + 1 }
        out := s.out ++ [.faultLog (.protocolTiming f)] } := rfl

/-- Settles O7: a legal edge reaches `acceptEdge`, which in IDLE makes the record of the sampled lines. -/
theorem edgeInIdleIsAccepted : Obligations.EdgeInIdleIsAccepted := by
  intro s c hrd hwr hidle
  rw [perform_strobeFall_of_both_high hrd hwr, acceptEdge_idle (by simpa only [State.withInputs_bus] using hidle)]
  rfl

/-- Settles O8: a legal edge reaches `acceptEdge`, which outside IDLE raises the fault and drops the edge. -/
theorem edgeWhileBusyIsDroppedAndRecorded : Obligations.EdgeWhileBusyIsDroppedAndRecorded := by
  intro s c hrd hwr hbusy
  rw [perform_strobeFall_of_both_high hrd hwr, acceptEdge_busy (by simpa only [State.withInputs_bus] using hbusy),
    raise_protocolTiming]
  rfl

/-! ### The retire -/

/-- The engine's step in any state after an effect writes `bte` alone, and `data_out` stays driven (R129). -/
theorem perform_bte_of_dispatched {s : State} {t : Transaction}
    (h : s.bus.bte = .dispatchRead t ∨ s.bus.bte = .dispatchWrite t ∨ s.bus.bte = .ignore t) :
    perform .bte s = .next (s.withBus { s.bus with bte := .idle }) := by
  obtain hread | hwrite | hignore := h
  · simp only [perform, bteStep, hread]
  · simp only [perform, bteStep, hwrite]
  · simp only [perform, bteStep, hignore]

/-- Settles O11: in each of the three states the engine's step is the retire. -/
theorem retireReturnsToIdle : Obligations.RetireReturnsToIdle :=
  fun _ _ hdone => perform_bte_of_dispatched hdone

end Sys2Proof
end

section
/-! Proofs: the writes of the address-class registers (41_register_ops.md R149 to R163, R167, R169). -/

namespace Sys2Proof

open Sys2Proof.Machine

/-- The registers whose write goes to the shadow bytes, in the order of their offsets (20_memory.md R73). -/
def addressClass : List Reg := [.fblo, .fbhi, .fbext, .hrlo, .hrhi, .vrlo, .vrhi, .pfmt, .loff, .sadr]

/-- The upper five bits of a REG word, KIND and OFF, select the write of their register (R93). -/
theorem decodeReg_write_append (r : Reg) (d : Byte) :
    decodeReg (Kind.wr.bit ++ r.offset ++ d) = writeInstr d r :=
  calc decodeReg (regBits .wr r.offset d)
    _ = writeInstr d (regAt r.offset) := decodeReg_wr r.offset d
    _ = writeInstr d r := by rw [regAt_offset]

/-- Out of DECODE the end of a write is the engine's move to DISPATCH_WRITE (R123). -/
theorem finishWrite_of_decode {s : State} {t : Transaction} (hdec : s.bus.bte = .decode t) :
    finishWrite s = s.withBus { s.bus with bte := .dispatchWrite t } := by
  rw [finishWrite, hdec, Bte.after_decode]

/-- Every address-class write is the one effect `applyShadow` of its register (R73). -/
theorem exec_writeInstr_of_addressClass {r : Reg} (hr : r ∈ addressClass) (d : Byte) (s : State) :
    exec (writeInstr d r) s = .next (finishWrite (applyShadow r d s)) := by
  cases r
  case fblo | fbhi | fbext | hrlo | hrhi | vrlo | vrhi | pfmt | loff | sadr => rfl
  case ctrl | stat | pala | pald | dmac | curs => simp [addressClass] at hr

/-- Dispatched from DECODE, an address-class write changes its shadow byte and the engine's state alone. -/
theorem exec_writeInstr_of_addressClass_of_decode {r : Reg} {s : State} {t : Transaction} (hr : r ∈ addressClass)
    (d : Byte) (hdec : s.bus.bte = .decode t) :
    exec (writeInstr d r) s = .next
      { s with regs := { s.regs with sh := s.regs.sh.set d r }, bus := { s.bus with bte := .dispatchWrite t } } := by
  have hkept : (applyShadow r d s).bus.bte = .decode t := hdec
  rw [exec_writeInstr_of_addressClass hr, finishWrite_of_decode hkept]
  rfl

/-- Settles O20: the ten rows are the address-class registers, each with its REG word, its write and its shadow
byte, so one argument over the register serves them all. -/
theorem addressClassWritesStoreOneShadowByte : Obligations.AddressClassWritesStoreOneShadowByte := by
  intro s t d hdec q hq
  change q ∈ addressClass.map fun r => (Kind.wr.bit ++ r.offset, writeInstr d r, s.regs.sh.set d r) at hq
  obtain ⟨r, hr, rfl⟩ := List.mem_map.mp hq
  exact ⟨decodeReg_write_append r d, exec_writeInstr_of_addressClass_of_decode hr d hdec⟩

end Sys2Proof
end

section
/-! Proofs: the writes of Palette Address and Palette Data (42_palette.md R180, R181). -/

namespace Sys2Proof

open Sys2Proof.Machine

/-- Out of DECODE a write that stores in the register side changes that and the engine's state alone (R123). -/
theorem finishWrite_withRegs_of_decode {s : State} {t : Transaction} (r : RegSide) (hdec : s.bus.bte = .decode t) :
    finishWrite (s.withRegs r) = { s with regs := r, bus := { s.bus with bte := .dispatchWrite t } } := by
  have hkept : (s.withRegs r).bus.bte = .decode t := by rwa [State.withRegs_bus]
  rw [finishWrite_of_decode hkept]
  rfl

/-- Settles O18: the write's one effect is the cursor reset, so the table is not part of what it stores. -/
theorem paletteAddressWriteResetsTheCursor : Obligations.PaletteAddressWriteResetsTheCursor := by
  intro s t d hdec
  calc exec (.wrPala d) s
    _ = .next (finishWrite (s.withRegs { s.regs with palIndex := d, palChannel := .red })) := rfl
    _ = _ := by rw [finishWrite_withRegs_of_decode _ hdec]

/-- The channel write at a known channel of the cursor: the byte goes to that channel of the entry at the index, and
the index moves on when the triplet is complete (R181, R183). -/
theorem applyPaletteData_of_channel {s : State} {c : Channel} (d : Byte) (hc : s.regs.palChannel = c) :
    applyPaletteData d s = s.withRegs
      { s.regs with
        pal := paletteSet s.regs.pal s.regs.palIndex ((paletteAt s.regs.pal s.regs.palIndex).setChannel c d)
        palIndex := if c = .blue then s.regs.palIndex + 1 else s.regs.palIndex
        palChannel := c.next } := by
  subst hc
  rfl

/-- Dispatched from DECODE, a Palette Data write changes the table, the cursor and the engine's state alone. -/
theorem exec_wrPald_of_decode {s : State} {t : Transaction} {c : Channel} (d : Byte) (hdec : s.bus.bte = .decode t)
    (hc : s.regs.palChannel = c) :
    exec (.wrPald d) s = .next
      { s with
        regs :=
          { s.regs with
            pal := paletteSet s.regs.pal s.regs.palIndex ((paletteAt s.regs.pal s.regs.palIndex).setChannel c d)
            palIndex := if c = .blue then s.regs.palIndex + 1 else s.regs.palIndex
            palChannel := c.next }
        bus := { s.bus with bte := .dispatchWrite t } } :=
  calc exec (.wrPald d) s
    _ = .next (finishWrite (applyPaletteData d s)) := rfl
    _ = _ := by rw [applyPaletteData_of_channel d hc, finishWrite_withRegs_of_decode _ hdec]

/-- Settles O19: the channel write at each of the three channels; only after blue does the index move, and the sum of
bytes is the sum modulo 256. -/
theorem paletteDataWriteFillsTheCursorsChannel : Obligations.PaletteDataWriteFillsTheCursorsChannel := by
  intro s t d hdec
  refine ⟨fun hc => ?red, fun hc => ?green, fun hc => ?blue⟩
  case red => rw [exec_wrPald_of_decode d hdec hc]; rfl
  case green => rw [exec_wrPald_of_decode d hdec hc]; rfl
  case blue => rw [exec_wrPald_of_decode d hdec hc, if_pos rfl, index_succ]; rfl

end Sys2Proof
end

section
/-! Proofs: `resolve` in full (43_fb_resolve.md R191, R192, R194, R195, R199). -/

namespace Sys2Proof

open Sys2Proof.Machine

/-! ### The format of a Pixel Format byte -/

/-- The Pixel Format byte of each of the five formats (30_encoding.md R104). -/
def pfmtCode : PixelFormat → Nat
  | .bpp1 => 0
  | .bpp4 => 1
  | .bpp8 => 2
  | .bpp16 => 3
  | .bpp24 => 4

theorem formatOf_of_code {b : Byte} {fmt : PixelFormat} (hcode : b.toNat = pfmtCode fmt) : formatOf b = some fmt := by
  rw [formatOf, hcode]
  cases fmt <;> rfl

/-- The bytes past the last code have no format (R195). -/
theorem formatOf_of_undefined {b : Byte} (hundef : 4 < b.toNat) : formatOf b = none := by
  unfold formatOf
  split
  case h_6 => rfl
  all_goals omega

/-! ### What `resolve` answers -/

theorem resolve_of_no_format (cfg : Config) {sh : Shadow} (hfmt : formatOf sh.pfmt = none) :
    resolve cfg sh = none := by
  rw [resolve, hfmt]

/-- With a format only the bound can fail, and it fails beyond the capacity, not at it (R194). -/
theorem resolve_of_format (cfg : Config) {sh : Shadow} {fmt : PixelFormat} (hfmt : formatOf sh.pfmt = some fmt) :
    resolve cfg sh =
      if cfg.memCapacity < sh.base.toNat + sh.height.toNat * strideOf cfg sh fmt then none
      else
        some { base := sh.base, start := sh.sadr, stride := strideOf cfg sh fmt, width := sh.width,
               height := sh.height, fmt := fmt } := by
  simp only [resolve, hfmt, ← not_lt, ite_not]

/-- The automatic stride rounds the bits of a line up to whole bytes (R192). -/
theorem strideOf_eq (cfg : Config) (sh : Shadow) (fmt : PixelFormat) :
    strideOf cfg sh fmt =
      if sh.loff = 0 then (sh.width.toNat * fmt.bits + 7) / 8 else sh.loff.toNat * cfg.lineOffsetUnit := rfl

/-- Settles O26: the five rows are the formats, each with its code and its bits, so one argument over the format
serves them all. -/
theorem resolveInFull : Obligations.ResolveInFull := by
  intro cfg sh
  refine ⟨fun hundef => resolve_of_no_format cfg (formatOf_of_undefined hundef), fun q hq => ?_⟩
  change q ∈ [.bpp1, .bpp4, .bpp8, .bpp16, .bpp24].map fun fmt => (pfmtCode fmt, fmt, fmt.bits) at hq
  obtain ⟨fmt, -, rfl⟩ := List.mem_map.mp hq
  intro hcode
  rw [resolve_of_format cfg (formatOf_of_code hcode), strideOf_eq]
  rfl

end Sys2Proof
end

section
/-! Proofs: the advance of the position and the sync outputs of a tick (44_timing_sync.md R215 to R218). -/

namespace Sys2Proof

open Sys2Proof.Machine

/-! ### The position a tick processes -/

theorem tickEvent_eq_ite (s : State) :
    tickEvent s = if s.pix.col = 0 ∧ s.pix.line = activeLines s.cfg s.pix then vblankEvent s else s := by
  split
  case isTrue hat => exact tickEvent_at hat
  case isFalse helse => exact tickEvent_else helse

/-- The vblank event puts the position at the start of line 0 or of the first vertical-blank line (R213, R214); the
blanking of legal parameters gives the new frame a column and that line (R206). -/
theorem vblankEvent_position_lt {s : State} (hwf : s.cfg.wf = true) :
    (vblankEvent s).pix.col < totalCols s.cfg (vblankEvent s).pix ∧
      (vblankEvent s).pix.line < totalLines s.cfg (vblankEvent s).pix := by
  obtain ⟨hcols, hlines⟩ := blanking_pos hwf (vblankEvent s).pix.actMode
  have hcol : (vblankEvent s).pix.col = 0 := by rw [vblankEvent_pix]
  have hline : (vblankEvent s).pix.line ≤ activeLines s.cfg (vblankEvent s).pix := by
    rw [vblankEvent_pix]
    dsimp only
    split
    · exact Nat.zero_le _
    · exact le_rfl
  rw [totalCols_eq, totalLines_eq]
  omega

/-- In a sound state the position a tick processes lies inside its frame. -/
theorem tickEvent_position_lt {s : State} (hinv : FrameInv s) :
    (tickEvent s).pix.col < totalCols s.cfg (tickEvent s).pix ∧
      (tickEvent s).pix.line < totalLines s.cfg (tickEvent s).pix := by
  rw [tickEvent_eq_ite]
  split
  · exact vblankEvent_position_lt hinv.cfgWf
  · exact ⟨hinv.frame.colLt, hinv.frame.lineLt⟩

/-! ### What a tick makes of that position -/

/-- The line arm changes the chain and the line buffers alone, so neither the position nor the geometry (R247). -/
theorem tickArm_pix (u : Bool) (s : State) : ∃ chain fetchOn curLine lastLine,
    (tickArm u s).pix =
      { s.pix with chain := chain, fetchOn := fetchOn, curLine := curLine, lastLine := lastLine } := by
  by_cases hcol : s.pix.col = 0
  · rw [tickArm_zero hcol, armLine_pix]
    exact ⟨_, _, _, _, rfl⟩
  · rw [tickArm_else hcol]
    exact ⟨_, _, _, _, rfl⟩

/-- Apart from the chain and the line buffers, a tick leaves the advance of the position processed, with the sync
outputs and the blanking indication of that position (R209). -/
theorem tick_pix_eq_advancePos (u : Bool) (s : State) : ∃ chain fetchOn curLine lastLine,
    (tick u s).pix = advancePos s.cfg
      { (tickEvent s).pix with
        chain := chain, fetchOn := fetchOn, curLine := curLine, lastLine := lastLine
        vsyncOut := inVsync s.cfg (tickEvent s).pix
        hsyncOut := inHsync s.cfg (tickEvent s).pix
        inVblank := decide (activeLines s.cfg (tickEvent s).pix ≤ (tickEvent s).pix.line) } := by
  obtain ⟨_, _, _, _, harm⟩ := tickArm_pix u (tickEvent s)
  rw [tick_pix, harm]
  exact ⟨_, _, _, _, rfl⟩

/-! ### The position number -/

/-- The positions of a frame are numbered below `HT * VT`. -/
theorem posIndex_lt {cfg : Config} {p : PixelSide} (hcol : p.col < totalCols cfg p)
    (hline : p.line < totalLines cfg p) : posIndex cfg p < totalCols cfg p * totalLines cfg p :=
  calc posIndex cfg p
    _ < (p.line + 1) * totalCols cfg p := by rw [posIndex, Nat.succ_mul]; omega
    _ ≤ totalLines cfg p * totalCols cfg p := Nat.mul_le_mul_right _ hline
    _ = totalCols cfg p * totalLines cfg p := Nat.mul_comm _ _

/-- The advance counts on by one, and from the last position of the last line back to 0 (R215). -/
theorem posIndex_advancePos {cfg : Config} {p : PixelSide} (hcol : p.col < totalCols cfg p)
    (hline : p.line < totalLines cfg p) :
    posIndex cfg (advancePos cfg p) = (posIndex cfg p + 1) % (totalCols cfg p * totalLines cfg p) := by
  have hgeom : totalCols cfg (advancePos cfg p) = totalCols cfg p := rfl
  by_cases hlast : p.col + 1 = totalCols cfg p ∧ p.line + 1 = totalLines cfg p
  case pos =>
    obtain ⟨hc, hl⟩ := hlast
    have hwrap : posIndex cfg p + 1 = totalCols cfg p * totalLines cfg p := by
      rw [posIndex, Nat.add_assoc, hc, ← Nat.succ_mul, Nat.succ_eq_add_one, hl, Nat.mul_comm]
    rw [hwrap, Nat.mod_self, posIndex, hgeom]
    simp [advancePos, hc, hl]
  case neg =>
    have hstep : posIndex cfg (advancePos cfg p) = posIndex cfg p + 1 := by
      rw [posIndex, posIndex, hgeom]
      by_cases hc : p.col + 1 = totalCols cfg p
      · have hl : p.line + 1 ≠ totalLines cfg p := fun hl => hlast ⟨hc, hl⟩
        simp [advancePos, hc, hl, Nat.succ_mul, Nat.add_assoc]
      · simp [advancePos, hc, hline.ne, Nat.add_assoc]
    obtain ⟨hline', hcol'⟩ := advancePos_lt hcol hline
    have hlt : posIndex cfg p + 1 < totalCols cfg p * totalLines cfg p :=
      hstep ▸ posIndex_lt (p := advancePos cfg p) hcol' hline'
    rw [hstep, Nat.mod_eq_of_lt hlt]

/-! ### The two statements -/

/-- Settles O30: the tick is the advance of the position processed, which lies inside its frame. -/
theorem tickAdvancesThePositionModuloTheFrame : Obligations.TickAdvancesThePositionModuloTheFrame := by
  intro s u hinv p
  obtain ⟨hcol, hline⟩ : p.col < totalCols s.cfg p ∧ p.line < totalLines s.cfg p := by
    simpa only [tickEvent_eq_ite] using tickEvent_position_lt hinv
  obtain ⟨_, _, _, _, htick⟩ := tick_pix_eq_advancePos u s
  rw [htick, tickEvent_eq_ite]
  exact ⟨posIndex_advancePos hcol hline, advancePos_lt hcol hline⟩

/-- Settles O31: the outputs the tick leaves are the windows of the position processed; the advance does not write
them. -/
theorem syncOutputsFollowThePosition : Obligations.SyncOutputsFollowThePosition := by
  intro s u p T AL W
  obtain ⟨_, _, _, _, htick⟩ := tick_pix_eq_advancePos u s
  rw [htick, tickEvent_eq_ite]
  exact ⟨inVsync_iff s.cfg p, inHsync_iff s.cfg p, decide_eq_true_iff⟩

end Sys2Proof
end

section
/-! Proofs: the pixels of a line, format by format (45_pixel_format.md R232 to R237). -/

namespace Sys2Proof

open Sys2Proof.Machine

/-! ### The bytes of a line -/

/-- A byte the line holds is read as it stands; the 0 past the end (notes/assumptions/23) is not reached. -/
theorem lineByte_of_getElem? {bytes : List Byte} {n : Nat} {b : Byte} (hb : bytes[n]? = some b) :
    lineByte bytes n = b := by
  rw [lineByte, List.getD_eq_getElem?_getD, hb, Option.getD_some]

/-! ### A bit or a nibble widened to an index -/

theorem setWidth_ofBool (c : Bool) : (BitVec.ofBool c).setWidth 8 = if c then 1 else 0 := by
  cases c <;> rfl

/-- The high nibble widened is the byte shifted down. -/
theorem setWidth_highNibble (b : Byte) : (b.extractLsb' 4 4).setWidth 8 = b >>> 4 := by
  apply BitVec.eq_of_toNat_eq
  rw [BitVec.toNat_setWidth, BitVec.extractLsb'_toNat, BitVec.toNat_ushiftRight]
  omega

/-- The low nibble widened is the byte masked. -/
theorem setWidth_lowNibble (b : Byte) : (b.extractLsb' 0 4).setWidth 8 = b &&& 0x0F := by
  have hmask : b.toNat &&& 15 = b.toNat % 16 := Nat.and_two_pow_sub_one_eq_mod b.toNat 4
  apply BitVec.eq_of_toNat_eq
  rw [BitVec.toNat_setWidth, BitVec.extractLsb'_toNat, BitVec.toNat_and, Nat.shiftRight_zero]
  change b.toNat % 16 % 256 = b.toNat &&& 15
  omega

/-- FMT_4BPP from the most significant bit: the even pixel of a byte is its high nibble (R234). -/
theorem setWidth_nibbleOf_msbFirst (b : Byte) (k : Nat) :
    (nibbleOf .msbFirst b k).setWidth 8 = if k % 2 = 0 then b >>> 4 else b &&& 0x0F := by
  rw [nibbleOf, apply_ite (BitVec.setWidth 8), setWidth_highNibble, setWidth_lowNibble]

/-- FMT_4BPP from the least significant bit: the even pixel of a byte is its low nibble (R234). -/
theorem setWidth_nibbleOf_lsbFirst (b : Byte) (k : Nat) :
    (nibbleOf .lsbFirst b k).setWidth 8 = if k % 2 = 0 then b &&& 0x0F else b >>> 4 := by
  rw [nibbleOf, apply_ite (BitVec.setWidth 8), setWidth_highNibble, setWidth_lowNibble]

/-! ### A pixel from the bytes it is stored in -/

section

variable {order : BitOrder} {bytes : List Byte} {k : Nat}

theorem pixelOf_bpp1 {b : Byte} (hb : bytes[k / 8]? = some b) :
    pixelOf order .bpp1 bytes k = .index (if b.getLsbD (bitPlace order (k % 8)) then 1 else 0) := by
  rw [pixelOf, lineByte_of_getElem? hb, setWidth_ofBool]

theorem pixelOf_bpp4 {b : Byte} (hb : bytes[k / 2]? = some b) :
    pixelOf order .bpp4 bytes k = .index ((nibbleOf order b k).setWidth 8) := by
  rw [pixelOf, lineByte_of_getElem? hb]

theorem pixelOf_bpp8 {b : Byte} (hb : bytes[k]? = some b) : pixelOf order .bpp8 bytes k = .index b := by
  rw [pixelOf, lineByte_of_getElem? hb]

theorem pixelOf_bpp16 {lo hi : Byte} (hlo : bytes[2 * k]? = some lo) (hhi : bytes[2 * k + 1]? = some hi) :
    pixelOf order .bpp16 bytes k = .direct (.rgb565 (hi ++ lo)) := by
  rw [pixelOf, lineByte_of_getElem? hlo, lineByte_of_getElem? hhi]

theorem pixelOf_bpp24 {r g b : Byte} (hr : bytes[3 * k]? = some r) (hg : bytes[3 * k + 1]? = some g)
    (hb : bytes[3 * k + 2]? = some b) : pixelOf order .bpp24 bytes k = .direct (.rgb888 r g b) := by
  rw [pixelOf, lineByte_of_getElem? hr, lineByte_of_getElem? hg, lineByte_of_getElem? hb]

end

/-- Settles O41: place `k` of the line is `pixelOf`, so each clause is the pixel of its format from the bytes given;
the two bit orders differ in the bit or nibble taken. -/
theorem unpackPlacesThePixels : Obligations.UnpackPlacesThePixels := by
  intro order bytes width k hk
  simp only [unpack_getElem? hk]
  refine ⟨fun fmt => unpack_length order bytes fmt width, fun b hb => ?bpp1, fun b hb => ?bpp4, fun b hb => ?bpp8,
    fun lo hi hlo hhi => ?bpp16, fun r g b hr hg hb => ?bpp24⟩
  case bpp1 => exact ⟨congrArg some (pixelOf_bpp1 hb), congrArg some (pixelOf_bpp1 hb)⟩
  case bpp4 =>
    rw [pixelOf_bpp4 hb, pixelOf_bpp4 hb, setWidth_nibbleOf_msbFirst, setWidth_nibbleOf_lsbFirst]
    exact ⟨rfl, rfl⟩
  case bpp8 => rw [pixelOf_bpp8 hb]
  case bpp16 => rw [pixelOf_bpp16 hlo hhi]
  case bpp24 => rw [pixelOf_bpp24 hr hg hb]

end Sys2Proof
end

section
/-! Proofs: the chain of an active line and the underrun (46_dma_chain.md R247, R251, R254). -/

namespace Sys2Proof

open Sys2Proof.Machine

/-! ### The chain past the arm: one column ends the pixel transfer -/

section

variable {cfg : Config} {p : PixelSide}

theorem restPix_chain_of_col_ne_width (hcol : p.col ≠ activeWidth p) : (restPix cfg p).chain = p.chain :=
  if_neg fun ⟨_, hend, _⟩ => hcol hend

theorem restPix_chain_of_chain_ne_pix (hchain : p.chain ≠ .pix) : (restPix cfg p).chain = p.chain :=
  if_neg fun ⟨_, _, hpix⟩ => hchain hpix

theorem restPix_chain_at_width (hline : p.line < activeLines cfg p) (hcol : p.col = activeWidth p)
    (hchain : p.chain = .pix) : (restPix cfg p).chain = .blk :=
  if_pos ⟨hline, hcol, hchain⟩

/-- What the rest of a tick makes of the pixel side does not depend on the line buffers, and leaves them as they are
(R209). -/
theorem restPix_line_buffers (cur last : List StoredPixel) :
    restPix cfg { p with curLine := cur, lastLine := last } =
      { restPix cfg p with curLine := cur, lastLine := last } := rfl

end

/-! ### The tick that starts an active line -/

section

variable {s : State}

/-- At column 0 of an active line there is no vblank event, so the arm is all that goes before the rest (R210). -/
theorem tickArm_tickEvent_of_active (u : Bool) (hcol : s.pix.col = 0)
    (hline : s.pix.line < activeLines s.cfg s.pix) : tickArm u (tickEvent s) = armLine u s := by
  rw [tickEvent_else fun ⟨_, hvblank⟩ => hline.ne hvblank, tickArm_zero hcol]

/-- Column 0 is not the first blanking column, so the chain a tick arms is the chain it leaves (R247). -/
theorem tick_chain_of_line_start (u : Bool) (hcol : s.pix.col = 0)
    (hline : s.pix.line < activeLines s.cfg s.pix) (hwidth : 0 < s.pix.act.width.toNat) :
    (tick u s).pix.chain = if s.regs.chainEn then .pix else .stopped := by
  have hactive : lineActive s.cfg s.pix = true := (lineActive_iff _ _).mpr ⟨hline, hwidth⟩
  have hne : (armLine u s).pix.col ≠ activeWidth (armLine u s).pix := by
    rw [armLine_pix]
    exact hcol.trans_ne hwidth.ne
  rw [tick_pix, tickArm_tickEvent_of_active u hcol hline, restPix_chain_of_col_ne_width hne, armLine_pix, hactive]
  rfl

/-! ### The underrun of a fetched line -/

/-- With both enables set, an active line is one that the arm fetches (R247). -/
theorem fetching_of_enables (hchain : s.regs.chainEn = true) (hout : enableOutput s.regs.ctrl = true)
    (hactive : lineActive s.cfg s.pix = true) :
    (s.regs.chainEn && (enableOutput s.regs.ctrl && lineActive s.cfg s.pix)) = true := by
  rw [hchain, hout, hactive]
  rfl

/-- On the pixel side, an underrun differs from the fetch in the line buffers alone, which hold the last valid line
(R254). -/
theorem armLine_pix_underrun
    (hfetch : (s.regs.chainEn && (enableOutput s.regs.ctrl && lineActive s.cfg s.pix)) = true) :
    (armLine true s).pix =
      { (armLine false s).pix with curLine := s.pix.lastLine, lastLine := s.pix.lastLine } := by
  rw [armLine_pix, armLine_pix, hfetch]
  rfl

theorem underruns_true_of_fetching
    (hfetch : (s.regs.chainEn && (enableOutput s.regs.ctrl && lineActive s.cfg s.pix)) = true) :
    underruns true s = true := by
  rw [underruns, hfetch]
  rfl

/-- A tick that starts an active line keeps the active descriptor: neither the latch nor any other part of it writes
that (R200). -/
theorem tick_act_of_line_start (u : Bool) (hcol : s.pix.col = 0) (hline : s.pix.line < activeLines s.cfg s.pix) :
    (tick u s).pix.act = s.pix.act := by
  rw [tick_pix, tickArm_tickEvent_of_active u hcol hline, restPix_act, armLine_pix]

end

/-! ### The two statements -/

/-- Settles O42: the arm at column 0 sets the chain, and of the columns after it only column `W` ends a pixel
transfer. -/
theorem pixelTransferEndsAtTheFirstBlankColumn : Obligations.PixelTransferEndsAtTheFirstBlankColumn := by
  intro s u hline hwidth
  refine ⟨fun hcol => ?armed, fun hcol hlt => ?kept, fun hcol hpix => ?ended, fun hcol hstop => ?stopped⟩
  case armed => exact tick_chain_of_line_start u hcol hline hwidth
  case kept => rw [tick_pix_inside hcol.ne', restPix_chain_of_col_ne_width hlt.ne]
  case ended =>
    have hinside : s.pix.col ≠ 0 := hcol.trans_ne hwidth.ne'
    rw [tick_pix_inside hinside, restPix_chain_at_width hline hcol hpix]
  case stopped =>
    have hidle : s.pix.chain ≠ .pix := by rw [hstop]; decide
    rw [tick_pix_inside hcol.ne', restPix_chain_of_chain_ne_pix hidle, hstop]

/-- Settles O37: the two ticks have one arm each, which differ in the line buffers, and the rest of a tick carries
that through; the underrun's own record is the arm's. -/
theorem underrunRepeatsTheLastValidLine : Obligations.UnderrunRepeatsTheLastValidLine := by
  intro s hcol hline hwidth hchain hout
  have hfetch := fetching_of_enables hchain hout ((lineActive_iff _ _).mpr ⟨hline, hwidth⟩)
  have hunderrun := underruns_true_of_fetching hfetch
  have harm (u : Bool) := tickArm_tickEvent_of_active u hcol hline
  refine ⟨?pix, ?chain, tick_act_of_line_start true hcol hline, tick_mem true s, ?faults, ?out⟩
  case pix =>
    rw [tick_pix, tick_pix, harm, harm, armLine_pix_underrun hfetch, restPix_line_buffers]
  case chain => rw [tick_chain_of_line_start true hcol hline hwidth, if_pos hchain]
  case faults =>
    rw [tick_faults, harm, armLine_faults, if_pos hunderrun]
    rfl
  case out =>
    have hlogged : (armLine true s).out = s.out ++ [.faultLog (.scanoutUnderrun s.pix.line)] := by
      rw [armLine_out, if_pos hunderrun]
    rw [← hlogged, ← harm]
    exact tick_out_prefix true s

end Sys2Proof
end

section
/-! Proofs: the round trips of the RAW word, the REG word and the opcode table (30_encoding.md R91 to R93, R111,
R112). -/

namespace Sys2Proof

open Sys2Proof.Machine

/-! ### Decoding what was encoded -/

/-- The cycle at `BASE + o` in an aligned window is claimed, and its REG word has offset `o` (R92, R111). -/
theorem decodeCycle_at_offset {base : BusAddr} (hbase : base &&& 0x000F#16 = 0#16) (k : Kind) (o : Offset)
    (d : Byte) :
    decodeCycle base { aen := false, kind := k, addr := base + o.setWidth 16, data := d } =
      decodeReg (regBits k o d) := by
  obtain ⟨hin, hoff⟩ := inWindow_offset hbase o
  rw [decodeCycle_of_inside rfl hin, regWordOf, hoff]

theorem encodeCycle_eq_of_operation_none {i : Instr} (h : i.operation = none) (base base' : BusAddr) :
    encodeCycle base i = encodeCycle base' i := by
  obtain ⟨k, a, d, rfl⟩ | ⟨k, a, d, rfl⟩ := ignored_of_operation_none h <;> rfl

theorem decodeCycle_encodeCycle {base : BusAddr} {i : Instr} (hbase : base &&& 0x000F#16 = 0#16)
    (hwf : i.wf base = true) : decodeCycle base (encodeCycle base i) = i := by
  cases hop : i.operation with
  | some op =>
    obtain ⟨k, r, d⟩ := op
    rw [encodeCycle_of_operation base hop, decodeCycle_at_offset hbase, decodeReg_of_operation hop]
  | none =>
    obtain ⟨k, a, d, rfl⟩ | ⟨k, a, d, rfl⟩ := ignored_of_operation_none hop
    · exact decodeCycle_of_aen base rfl
    · exact decodeCycle_of_outside rfl ((Bool.not_eq_true' _).mp hwf)

theorem decode_rawOf (base : BusAddr) (c : Cycle) : decode base (rawOf c) = decodeCycle base c := by
  rw [decode, cycleOf_rawOf]

/-- Settles O1: the RAW word keeps the sampled lines, and those of a well-formed instruction decode to it. -/
theorem decodeOfEncodeIsTheInstruction : Obligations.DecodeOfEncodeIsTheInstruction := by
  intro base i hbase hwf
  rw [encode, decode_rawOf, decodeCycle_encodeCycle hbase hwf]

/-! ### The opcode table -/

/-- A REG word of the table is laid on the bus at its register's address (R112). -/
theorem tableRaw_regBits (base : BusAddr) (k : Kind) (o : Offset) (d : Byte) :
    tableRaw base 16 (regBits k o d).toNat = rawBits false k (base + o.setWidth 16) d := by
  simp only [tableRaw, if_pos (show 16 ≤ 16 from le_rfl), BitVec.ofNat_toNat, BitVec.setWidth_eq, regBits_kind,
    regBits_off, regBits_data]

theorem tableRaw_raw (base : BusAddr) (w : RawWord) : tableRaw base 32 w.toNat = w := by
  simp only [tableRaw, if_neg (show ¬ 32 ≤ 16 by decide), BitVec.ofNat_toNat, BitVec.setWidth_eq]

theorem decodeTableWord_regBits (k : Kind) (o : Offset) (d : Byte) :
    decodeTableWord 16 (regBits k o d).toNat = some (decodeReg (regBits k o d)) := by
  have hfits : (regBits k o d).toNat < 2 ^ 13 := (regBits k o d).isLt
  have haligned : Config.default.base &&& 0x000F#16 = 0#16 := by decide
  simp only [decodeTableWord, decodeTable, if_pos (show 16 ≤ 16 from le_rfl), if_pos hfits, tableRaw_regBits,
    decode_rawBits, decodeCycle_at_offset haligned]

theorem decodeTableWord_raw (w : RawWord) : decodeTableWord 32 w.toNat = some (decode Config.default.base w) := by
  have hfits : w.toNat < 2 ^ 26 := w.isLt
  simp only [decodeTableWord, decodeTable, if_neg (show ¬ 32 ≤ 16 by decide), if_pos hfits, tableRaw_raw]

/-- Settles O2: a register operation's row is its REG word, laid in the default window; an ignored cycle's row is its
RAW word, which does not depend on the base. -/
theorem tableWordOfEveryInstructionDecodesToIt : Obligations.TableWordOfEveryInstructionDecodesToIt := by
  intro i hwf
  cases hop : i.operation with
  | some op =>
    obtain ⟨k, r, d⟩ := op
    have hrow : encodeTable i = (16, (regBits k r.offset d).toNat) := by simp [encodeTable, encodeReg, hop]
    rw [hrow, decodeTableWord_regBits, decodeReg_of_operation hop]
  | none =>
    have hrow : encodeTable i = (32, (rawOf (encodeCycle 0 i)).toNat) := by simp [encodeTable, encodeReg, hop]
    rw [hrow, decodeTableWord_raw, decode_rawOf, encodeCycle_eq_of_operation_none hop 0 Config.default.base,
      decodeCycle_encodeCycle (by decide) hwf]

/-! ### Encoding what was decoded -/

/-- What the decoder keeps of sampled lines: all but the data lines of a claimed read, shown as 0 (R92;
notes/assumptions/24). -/
def keptLines (base : BusAddr) (c : Cycle) : Cycle :=
  if c.aen = false ∧ inWindow base c.addr = true ∧ c.kind = .rd then { c with data := 0 } else c

/-- A claimed address is the base and the offset that the mask leaves (20_memory.md R61, R62). -/
theorem base_add_offset {base a : BusAddr} (hin : inWindow base a = true) :
    base + ((a &&& offsetMask).setWidth 4).setWidth 16 = a := by
  have hlow : ∀ i, i < 16 → (0x000F#16).getLsbD i = decide (i < 4) := by decide
  have hwiden : ((a &&& offsetMask).setWidth 4).setWidth 16 = a &&& 0x000F#16 := by
    apply BitVec.eq_of_getLsbD_eq; intro i hi
    simp only [offsetMask, BitVec.getLsbD_setWidth, BitVec.getLsbD_and, hlow i hi]
    by_cases h4 : i < 4 <;> simp [h4, hi]
  have hdisjoint : a &&& 0xFFF0#16 &&& (a &&& 0x000F#16) = 0#16 :=
    calc a &&& 0xFFF0#16 &&& (a &&& 0x000F#16)
      _ = a &&& a &&& (0xFFF0#16 &&& 0x000F#16) := by ac_rfl
      _ = 0#16 := BitVec.and_zero
  rw [hwiden, ← inWindow_iff_masked_eq.mp hin, BitVec.add_eq_or_of_and_eq_zero _ _ hdisjoint,
    ← BitVec.and_or_distrib_left]
  exact BitVec.and_allOnes

theorem decodeReg_operation (k : Kind) (o : Offset) (d : Byte) :
    (decodeReg (regBits k o d)).operation = some (k, regAt o, if k = .rd then 0 else d) := by
  cases k
  case rd => rw [decodeReg_rd, readInstr_operation]; rfl
  case wr => rw [decodeReg_wr, writeInstr_operation]; rfl

theorem encodeCycle_decodeCycle (base : BusAddr) (c : Cycle) :
    encodeCycle base (decodeCycle base c) = keptLines base c := by
  obtain ⟨aen, k, a, d⟩ := c
  cases haen : aen
  case true => rfl
  case false =>
    cases hin : inWindow base a
    case false => rw [decodeCycle_of_outside rfl hin, keptLines, if_neg (by simp [hin])]; rfl
    case true =>
      rw [decodeCycle_of_inside rfl hin, regWordOf,
        encodeCycle_of_operation base (decodeReg_operation _ _ _), offset_regAt, base_add_offset hin]
      cases k <;> simp [keptLines, hin]

theorem decodeReg_wf (base : BusAddr) (k : Kind) (o : Offset) (d : Byte) :
    (decodeReg (regBits k o d)).wf base = true := by
  have hop := decodeReg_operation k o d
  cases hi : decodeReg (regBits k o d)
  case ignoreMiss => rw [hi] at hop; cases hop
  all_goals rfl

theorem decodeCycle_wf (base : BusAddr) (c : Cycle) : (decodeCycle base c).wf base = true := by
  unfold decodeCycle
  split_ifs with haen hin
  · rfl
  · exact decodeReg_wf _ _ _ _
  · simpa [Instr.wf] using hin

/-- Masking the data byte of a RAW word leaves the other lines as they are. -/
theorem rawOf_cycleOf_data_zero (w : RawWord) : rawOf { cycleOf w with data := 0 } = w &&& 0x3FFFF00#26 := by
  have hmask : ∀ i, i < 26 → (0x3FFFF00#26).getLsbD i = decide (8 ≤ i) := by decide
  conv_rhs => rw [← rawOf_cycleOf w]
  apply BitVec.eq_of_getLsbD_eq; intro i hi
  simp only [rawOf, rawBits, BitVec.getLsbD_and, BitVec.getLsbD_append, hmask i hi]
  by_cases h8 : i < 8 <;> simp [h8, Nat.le_of_not_lt]

theorem kindOf_eq_rd_iff (b : Bool) : kindOf b = .rd ↔ b = false := by cases b <;> decide

/-- Settles O3: the decoder keeps the sampled lines but the data of a claimed read, and the RAW word is those lines. -/
theorem encodeOfDecodeKeepsEveryBitButReadData : Obligations.EncodeOfDecodeKeepsEveryBitButReadData := by
  intro base w
  refine ⟨decodeCycle_wf base (cycleOf w), ?_⟩
  have hclaimed : ((cycleOf w).aen = false ∧ inWindow base (cycleOf w).addr = true ∧ (cycleOf w).kind = .rd) ↔
      (w.getLsbD 25 = false ∧ w.extractLsb' 8 16 &&& 0xFFF0#16 = base ∧ w.getLsbD 24 = false) := by
    rw [inWindow_iff_masked_eq]
    exact and_congr_right' (and_congr_right' (kindOf_eq_rd_iff _))
  rw [encode, decode, encodeCycle_decodeCycle, keptLines]
  split_ifs with hread hbits hbits
  · exact rawOf_cycleOf_data_zero w
  · exact absurd (hclaimed.mp hread) hbits
  · exact absurd (hclaimed.mpr hbits) hread
  · exact rawOf_cycleOf w

/-! ### Words written out -/

/-- The upper five bits of a REG word select the read of their register, whatever the data (R93). -/
theorem decodeReg_read_append (r : Reg) (d : Byte) : decodeReg (Kind.rd.bit ++ r.offset ++ d) = readInstr r :=
  calc decodeReg (regBits .rd r.offset d)
    _ = readInstr (regAt r.offset) := decodeReg_rd r.offset d
    _ = readInstr r := by rw [regAt_offset]

/-- Settles O5: the RAW words by evaluation; each row of the table is the read or the write of its register, for every
data byte. -/
theorem writtenOutWordsDecode : Obligations.WrittenOutWordsDecode := by
  refine ⟨by decide, by decide, by decide, by decide, by decide, by decide, by decide, fun d => ?_⟩
  have hrd (r : Reg) := decodeReg_read_append r d
  have hwr (r : Reg) := decodeReg_write_append r d
  exact ⟨hrd .ctrl, hwr .ctrl, hrd .stat, hwr .stat, hrd .pala, hwr .pala, hrd .pald, hwr .pald,
    hrd .fblo, hwr .fblo, hrd .fbhi, hwr .fbhi, hrd .fbext, hwr .fbext, hrd .hrlo, hwr .hrlo,
    hrd .hrhi, hwr .hrhi, hrd .vrlo, hwr .vrlo, hrd .vrhi, hwr .vrhi, hrd .pfmt, hwr .pfmt,
    hrd .dmac, hwr .dmac, hrd .loff, hwr .loff, hrd .sadr, hwr .sadr, hrd .curs, hwr .curs⟩

end Sys2Proof
end

section
/-! Proofs: what each event leaves alone, field by field (10_state.md R20, 20_memory.md R72, R82). -/

namespace Sys2Proof

open Sys2Proof.Machine

variable {s t : State} {e : Event}

/-! ### The fields each event may write -/

theorem strobeFall_frame {c : Cycle} (h : perform (.strobeFall c) s = .next t) :
    t = { s with bus := t.bus, inputs := t.inputs, faults := t.faults, out := t.out } := by
  obtain ⟨-, -, -, ⟨-, ht⟩ | ⟨-, ht⟩⟩ := strobeFall_next h <;> rw [ht] <;> rfl

theorem missDeadline_frame (k : Kind) (s : State) : ∃ b f o,
    missDeadline k s = { s with bus := b, faults := f, out := o } := by
  by_cases hown : ∃ tr, s.bus.bte = .decode tr ∧ tr.kind = k
  · obtain ⟨tr, hb, hk⟩ := hown
    rw [missDeadline_decode hb hk]
    exact ⟨_, _, _, rfl⟩
  · rw [missDeadline_else fun tr hb hk => hown ⟨tr, hb, hk⟩]
    exact ⟨_, _, _, rfl⟩

theorem strobeRise_frame {k : Kind} (h : perform (.strobeRise k) s = .next t) :
    t = { s with bus := t.bus, inputs := t.inputs, faults := t.faults, out := t.out, env := t.env } := by
  simp only [perform, strobeRise] at h
  split_ifs at h
  obtain ⟨v, hrelease⟩ := releaseData_eq k (s.withInputs (s.inputs.setStrobe k false))
  obtain ⟨b, f, o, hmiss⟩ := missDeadline_frame k (releaseData k (s.withInputs (s.inputs.setStrobe k false)))
  rw [hmiss, hrelease] at h
  cases h
  rfl

theorem blitSubmit_frame {cmd : BlitCmd} (h : perform (.blitSubmit cmd) s = .next t) :
    t = { s with blit := t.blit, faults := t.faults, out := t.out, env := t.env } := by
  obtain ⟨-, ht | ⟨-, ht⟩ | ⟨-, -, -, -, ht⟩⟩ := blitSubmit_next h <;> rw [ht] <;> rfl

theorem lateRead_frame {k : Nat} (h : perform (.lateRead k) s = .next t) :
    t = { s with
      pix := { s.pix with curLine := t.pix.curLine, lastLine := t.pix.lastLine }
      env := t.env } := by
  obtain ⟨_, -, -, ht⟩ := lateRead_next h
  rw [ht]
  rfl

theorem blitSlice_frame {n : Nat} (h : perform (.blitSlice n) s = .next t) :
    t = { s with mem := t.mem, blit := t.blit } := by
  obtain ⟨_, -, -, -, -, -, ht⟩ := blitSlice_next h
  rw [ht]
  rfl

/-- The parts of a tick write the register side in one place: the vblank event clears the pending restart (R213). -/
theorem tick_regs (u : Bool) (s : State) :
    (tick u s).regs =
      { s.regs with
        timingResetPending :=
          if s.pix.col = 0 ∧ s.pix.line = activeLines s.cfg s.pix then false else s.regs.timingResetPending } := by
  have hrest : (tick u s).regs = (tickEvent s).regs := by simp [tick]
  rw [hrest, tickEvent_eq_ite]
  split_ifs
  · exact vblankEvent_regs s
  · rfl

theorem perform_cfg (h : perform e s = .next t) : t.cfg = s.cfg := by
  cases e with
  | strobeFall c => rw [strobeFall_frame h]
  | strobeRise k => rw [strobeRise_frame h]
  | blitSubmit cmd => rw [blitSubmit_frame h]
  | hostMemWrite a v => rw [(hostMemWrite_next h).2]; rfl
  | bte => rw [bte_next h]; rfl
  | tick u => rw [tick_next h, tick_cfg]
  | lateRead k => rw [lateRead_frame h]
  | earlyLookup k ch => rw [earlyLookup_next h]; rfl
  | blitSlice n => rw [blitSlice_frame h]
  | reset pal => rw [reset_next h]; rfl
  | linkActive b => rw [linkActive_next h]; rfl

/-! ### The parts of the state, and the events that may write each -/

/-- The parts of the state that an invariant looks at. -/
inductive StatePart where
  | palette | bus | strobes | pix | mem | blit

/-- The part is the same in both states. -/
def StatePart.Same (s t : State) : StatePart → Prop
  | .palette =>
    t.regs.pal = s.regs.pal ∧ t.regs.palIndex = s.regs.palIndex ∧ t.regs.palChannel = s.regs.palChannel
  | .bus => t.bus = s.bus
  | .strobes => ∀ k, t.inputs.low k = s.inputs.low k
  | .pix => t.pix = s.pix
  | .mem => t.mem = s.mem
  | .blit => t.blit = s.blit

/-- The parts that an event may write. -/
@[simp] def writtenParts : Event → List StatePart
  | .strobeFall _ => [.bus, .strobes]
  | .strobeRise _ => [.bus, .strobes]
  | .blitSubmit _ => [.blit]
  | .hostMemWrite _ _ => [.mem]
  | .bte => [.palette, .bus]
  | .tick _ => [.pix]
  | .lateRead _ => [.pix]
  | .earlyLookup _ _ => []
  | .blitSlice _ => [.mem, .blit]
  | .reset _ => [.palette, .bus, .pix, .blit]
  | .linkActive _ => []

theorem low_of_linkActiveIn (i : Inputs) (b : Bool) (k : Kind) :
    ({ i with linkActiveIn := b } : Inputs).low k = i.low k := by
  cases k <;> rfl

/-- Every event keeps the parts that are not in its row of the table: its frame says what it writes, and a part outside
the row is not of that. -/
theorem perform_keeps (p : StatePart) (h : perform e s = .next t) (hp : p ∉ writtenParts e) : p.Same s t := by
  cases e
  case' strobeFall => rw [strobeFall_frame h]
  case' strobeRise => rw [strobeRise_frame h]
  case' blitSubmit => rw [blitSubmit_frame h]
  case' hostMemWrite => rw [(hostMemWrite_next h).2]
  case' bte => rw [bte_next h]
  case' tick => rw [tick_next h]
  case' lateRead => rw [lateRead_frame h]
  case' earlyLookup => rw [earlyLookup_next h]
  case' blitSlice => rw [blitSlice_frame h]
  case' reset => rw [reset_next h]
  case' linkActive => rw [linkActive_next h]
  all_goals cases p <;> simp_all [StatePart.Same, tick_regs, resetEvent, setLink, low_of_linkActiveIn]

end Sys2Proof
end

section
/-! Proofs: the register operations, by what a read drives and what a write stores (41_register_ops.md R139 to R172,
40_bus_engine.md R123 to R126). -/

namespace Sys2Proof

open Sys2Proof.Machine

/-! ### One equation for the reads, one for the writes, one for the ignored cycles -/

theorem eq_readInstr_or_writeInstr_or_ignored (i : Instr) :
    (∃ r, i = readInstr r) ∨ (∃ r d, i = writeInstr d r) ∨ i.operation = none := by
  cases hop : i.operation with
  | none => exact .inr (.inr rfl)
  | some op =>
    obtain ⟨k, r, d⟩ := op
    have hi := decodeReg_of_operation hop
    cases k
    case rd => rw [decodeReg_rd, regAt_offset] at hi; exact .inl ⟨r, hi.symm⟩
    case wr => rw [decodeReg_wr, regAt_offset] at hi; exact .inr (.inl ⟨r, d, hi.symm⟩)

/-- The value that the read of a register drives: the stored cell, the computed byte, or `WO_READ` (R139, R140, R142,
R164, R170). -/
def readValue (r : Reg) (s : State) : Byte :=
  match r with
  | .ctrl => s.regs.ctrl
  | .stat => statusByte s
  | .dmac => dmacByte s
  | .curs => s.regs.curs
  | r => writeOnlyRead r s

/-- The register side after the write of a register (R141, R143, R145, R147, R165, R171; the ten address-class
registers have a shadow byte each). -/
def regsAfterWrite (r : Reg) (d : Byte) (s : State) : RegSide :=
  match r with
  | .ctrl => (applyControl d s).regs
  | .stat => s.regs
  | .pala => (applyPaletteAddress d s).regs
  | .pald => (applyPaletteData d s).regs
  | .dmac => (applyDmac d s).regs
  | .curs => (applyCursor d s).regs
  | r => (applyShadow r d s).regs

theorem exec_readInstr (r : Reg) (s : State) : exec (readInstr r) s = .next (finishRead (readValue r s) s) := by
  cases r <;> rfl

theorem exec_writeInstr (r : Reg) (d : Byte) (s : State) :
    exec (writeInstr d r) s = .next (finishWrite (s.withRegs (regsAfterWrite r d s))) := by
  cases r <;> rfl

theorem exec_ignored {i : Instr} (h : i.operation = none) (s : State) : exec i s = .next (finishIgnore s) := by
  obtain ⟨k, a, d, rfl⟩ | ⟨k, a, d, rfl⟩ := ignored_of_operation_none h <;> rfl

/-- Settles O22: a read writes the bus alone, a write the register side and the engine's state, an ignored cycle the
engine's state. -/
theorem busOperationsTouchOnlyRegistersAndBus : Obligations.BusOperationsTouchOnlyRegistersAndBus := by
  intro i s
  obtain ⟨r, rfl⟩ | ⟨r, d, rfl⟩ | hnone := eq_readInstr_or_writeInstr_or_ignored i
  · refine ⟨s.regs, _, exec_readInstr r s, fun _ _ _ _ _ => rfl, fun hop => ?_, fun k g d hop hk => ?_⟩
    · rw [readInstr_operation] at hop; cases hop
    · rw [readInstr_operation] at hop; cases hop; cases hk
  · refine ⟨_, _, exec_writeInstr r d s, fun k g d' hop hk => ?_, fun hop => ?_, fun _ _ _ _ _ => rfl⟩
    · rw [writeInstr_operation] at hop; cases hop; cases hk
    · rw [writeInstr_operation] at hop; cases hop
  · exact ⟨s.regs, _, exec_ignored hnone s, fun _ _ _ _ _ => rfl, fun _ => ⟨rfl, rfl⟩, fun _ _ _ _ _ => rfl⟩

/-! ### Out of DECODE -/

section

variable {s : State} {t : Transaction}

/-- Dispatched from DECODE, a read drives its value unless the strobe already rose, and changes nothing else (R123,
R125). -/
theorem exec_readInstr_of_decode (r : Reg) (hdec : s.bus.bte = .decode t) :
    exec (readInstr r) s = .next
      { s with
        bus :=
          { bte := .dispatchRead t
            dataOut := if t.deasserted then s.bus.dataOut else some (readValue r s) } } := by
  rw [exec_readInstr, finishRead, hdec, Bte.after_decode, Bte.missed_decode]
  rfl

/-- Dispatched from DECODE, a write stores in the register side and moves the engine (R123, R126). -/
theorem exec_writeInstr_of_decode (r : Reg) (d : Byte) (hdec : s.bus.bte = .decode t) :
    exec (writeInstr d r) s = .next
      { s with regs := regsAfterWrite r d s, bus := { s.bus with bte := .dispatchWrite t } } := by
  rw [exec_writeInstr, finishWrite_withRegs_of_decode _ hdec]

theorem exec_ignored_of_decode {i : Instr} (h : i.operation = none) (hdec : s.bus.bte = .decode t) :
    exec i s = .next { s with bus := { s.bus with bte := .ignore t } } := by
  rw [exec_ignored h, finishIgnore, hdec, Bte.after_decode]
  rfl

end

/-- Settles O14: the reads of the two plain cells. -/
theorem storedCellsReadAsStored : Obligations.StoredCellsReadAsStored := by
  intro s t hdec
  exact ⟨exec_readInstr_of_decode .ctrl hdec, exec_readInstr_of_decode .curs hdec⟩

/-- Settles O16: the twelve rows are the registers whose value is `WO_READ`, each with its offset. -/
theorem writeOnlyOffsetsReadAsWoRead : Obligations.WriteOnlyOffsetsReadAsWoRead := by
  intro s t hdec q hq
  change q ∈ [Reg.pala, .pald, .fblo, .fbhi, .fbext, .hrlo, .hrhi, .vrlo, .vrhi, .pfmt, .loff, .sadr].map
    fun r => (readInstr r, r.offset) at hq
  obtain ⟨r, hr, rfl⟩ := List.mem_map.mp hq
  have hvalue : readValue r s = Config.woRead r.offset s.regs := by
    cases r
    case ctrl | stat | dmac | curs => simp at hr
    all_goals rfl
  rw [exec_readInstr_of_decode r hdec, hvalue]

/-- Settles O17: each of the four writes by what it stores; bit 1 of Control sets the pending restart and never clears
it. -/
theorem plainWritesStoreTheirBits : Obligations.PlainWritesStoreTheirBits := by
  intro s t d hdec
  refine ⟨?control, exec_writeInstr_of_decode .dmac d hdec, exec_writeInstr_of_decode .curs d hdec,
    exec_writeInstr_of_decode .stat d hdec⟩
  have hpending : (resetTiming d || s.regs.timingResetPending) =
      if d.getLsbD 1 = true then true else s.regs.timingResetPending := by
    rw [resetTiming]; cases d.getLsbD 1 <;> rfl
  rw [← hpending]
  exact exec_writeInstr_of_decode .ctrl d hdec

/-- Settles O21: both ignore classes have no operation. -/
theorem ignoredCyclesMoveOnlyTheEngine : Obligations.IgnoredCyclesMoveOnlyTheEngine :=
  fun _ _ _ _ _ hdec => ⟨exec_ignored_of_decode rfl hdec, exec_ignored_of_decode rfl hdec⟩

/-! ### The computed bytes, bit by bit -/

theorem getLsbD_append_ofBool_zero {w : Nat} (x : BitVec w) (b : Bool) :
    (x ++ BitVec.ofBool b).getLsbD 0 = b := BitVec.getLsbD_concat_zero

theorem getLsbD_append_ofBool_succ {w : Nat} (x : BitVec w) (b : Bool) (i : Nat) :
    (x ++ BitVec.ofBool b).getLsbD (i + 1) = x.getLsbD i := BitVec.getLsbD_concat_succ

theorem getLsbD_byteOf (b7 b6 b5 b4 b3 b2 b1 b0 : Bool) (i : Nat) :
    (byteOf b7 b6 b5 b4 b3 b2 b1 b0).getLsbD i = [b0, b1, b2, b3, b4, b5, b6, b7].getD i false := by
  unfold byteOf
  match i with
  | 0 | 1 | 2 | 3 | 4 | 5 | 6 | 7 =>
    simp only [getLsbD_append_ofBool_zero, getLsbD_append_ofBool_succ, BitVec.getLsbD_ofBool]
    simp
  | n + 8 => simp

theorem highNibble_byteOf_zero (b3 b2 b1 b0 : Bool) :
    (byteOf false false false false b3 b2 b1 b0).extractLsb' 4 4 = 0#4 := by
  apply BitVec.eq_of_getLsbD_eq; intro i hi
  rw [BitVec.getLsbD_extractLsb', getLsbD_byteOf]
  match i, hi with
  | 0, _ | 1, _ | 2, _ | 3, _ => rfl

/-- Settles O15: the two computed bytes are eight named bits each. -/
theorem computedReadsShowLiveState : Obligations.ComputedReadsShowLiveState := by
  intro s t hdec
  refine ⟨⟨statusByte s, exec_readInstr_of_decode .stat hdec, ?_⟩,
    ⟨dmacByte s, exec_readInstr_of_decode .dmac hdec, ?_⟩⟩
  · refine ⟨?_, ?_, ?_, ?_, highNibble_byteOf_zero _ _ _ _⟩ <;> exact getLsbD_byteOf _ _ _ _ _ _ _ _ _
  · refine ⟨?_, ?_, ?_, ?_, ?_, ?_, ?_, ?_⟩ <;> exact getLsbD_byteOf _ _ _ _ _ _ _ _ _

end Sys2Proof
end

section
/-! Proofs: the step, and the rises and full cycles of the bus engine (40_bus_engine.md R120 to R133,
60_exceptions.md R285). -/

namespace Sys2Proof

open Sys2Proof.Machine

/-! ### The step -/

theorem step_of_agenda {s : State} {e : Event} {rest : List Event} (h : s.env.agenda = e :: rest) :
    step s = perform e (popAgenda rest s) := by
  simp only [step, moveNext, h]

theorem step_of_empty_agenda {s : State} (h : s.env.agenda = []) :
    step s = performFree (Config.nextEvent s.env.draws) (nextDraw s) := by
  simp only [step, moveNext, h]

/-- Settles O6: the head of the agenda is performed, and the bus engine's own move in DECODE is the dispatch. -/
theorem stepRunsTheDecodedInstruction : Obligations.StepRunsTheDecodedInstruction := by
  refine ⟨fun s e rest hagenda => step_of_agenda hagenda, fun s t rest i hagenda hdec hi _ => ?_⟩
  have hkept : (popAgenda rest s).bus.bte = .decode t := hdec
  rw [step_of_agenda hagenda, perform_bte_decode hkept, popAgenda_cfg, Transaction.raw, hi]
  rfl

/-- Outside IDLE the bus engine's own step is enabled, and no instruction stops (R123, R129). -/
theorem perform_bte_next {s : State} (hbusy : s.bus.bte ≠ .idle) : ∃ t, perform .bte s = .next t := by
  cases hb : s.bus.bte with
  | idle => exact absurd hb hbusy
  | decode tr =>
    obtain ⟨_, _, hexec⟩ := exec_next (decode s.cfg.base tr.raw) s
    exact ⟨_, (perform_bte_decode hb).trans hexec⟩
  | dispatchRead tr => exact ⟨_, perform_bte_of_dispatched (.inl hb)⟩
  | dispatchWrite tr => exact ⟨_, perform_bte_of_dispatched (.inr (.inl hb))⟩
  | ignore tr => exact ⟨_, perform_bte_of_dispatched (.inr (.inr hb))⟩

/-- Settles O55: a free move falls back on the tick, a tick always answers, and so does a dispatch or a retire. -/
theorem nothingHaltsTheMachine : Obligations.NothingHaltsTheMachine := by
  refine fun s => ⟨fun hempty => ?free, fun rest u hagenda => ?tick, fun rest hagenda hbusy => ?bte⟩
  case free => rw [step_of_empty_agenda hempty]; exact performFree_next _ _
  case tick => rw [step_of_agenda hagenda]; exact ⟨_, rfl⟩
  case bte => rw [step_of_agenda hagenda]; exact perform_bte_next hbusy

/-! ### The rises -/

section

variable {s : State}

/-- The byte the host takes at the rise of the read strobe (R133). -/
def takenByte (s : State) : Byte := s.bus.dataOut.getD (Config.undrivenByte s.env.draws)

/-- The draws used up after it: one more when nothing was driven (notes/assumptions/10). -/
def drawsAfterTaking (s : State) : Nat := if s.bus.dataOut.isSome then s.env.draws else s.env.draws + 1

theorem taken_of_driven {w : Byte} (h : s.bus.dataOut = some w) :
    takenByte s = w ∧ drawsAfterTaking s = s.env.draws := by
  rw [takenByte, drawsAfterTaking, h]
  exact ⟨rfl, rfl⟩

theorem taken_of_undriven (h : s.bus.dataOut = none) :
    takenByte s = Config.undrivenByte s.env.draws ∧ drawsAfterTaking s = s.env.draws + 1 := by
  rw [takenByte, drawsAfterTaking, h]
  exact ⟨rfl, rfl⟩

theorem releaseData_rd (s : State) :
    releaseData .rd s =
      { s with
        bus := { s.bus with dataOut := none }
        env := { s.env with hostRead := some (takenByte s), draws := drawsAfterTaking s } } := by
  have htakes : hostTakes s =
      s.withEnv { s.env with hostRead := some (takenByte s), draws := drawsAfterTaking s } := by
    rw [hostTakes, takenByte, drawsAfterTaking]
    cases s.bus.dataOut <;> rfl
  rw [releaseData, htakes]
  rfl

theorem perform_strobeRise_of_low {k : Kind} (hlow : s.inputs.low k = true) :
    perform (.strobeRise k) s =
      .next (missDeadline k (releaseData k (s.withInputs (s.inputs.setStrobe k false)))) := by
  simp only [perform, strobeRise, hlow, if_true]

theorem releaseData_bte (k : Kind) (s : State) : (releaseData k s).bus.bte = s.bus.bte := by
  obtain ⟨_, hrelease⟩ := releaseData_eq k s
  rw [hrelease]
  rfl

/-- Every other rise is the release of the data lines alone (R128). -/
theorem perform_strobeRise_of_not_decode {k : Kind} (hlow : s.inputs.low k = true)
    (hother : ∀ t, s.bus.bte = .decode t → t.kind ≠ k) :
    perform (.strobeRise k) s = .next (releaseData k (s.withInputs (s.inputs.setStrobe k false))) := by
  rw [perform_strobeRise_of_low hlow, missDeadline_else]
  intro t ht
  rw [releaseData_bte] at ht
  exact hother t ht

end

/-- Settles O9: the rise in DECODE is the release and then the fault; the write strobe releases nothing. -/
theorem riseBeforeDispatchIsRecorded : Obligations.RiseBeforeDispatchIsRecorded := by
  intro s t hlow hdec f o
  have hmiss (k : Kind) (i : Inputs) (hk : t.kind = k) :=
    missDeadline_decode ((releaseData_bte k (s.withInputs i)).trans hdec) hk
  refine ⟨fun hrd => ?_, fun hwr => ?_⟩
  · refine ⟨takenByte s, drawsAfterTaking s, fun _ => taken_of_driven, taken_of_undriven, ?_⟩
    rw [perform_strobeRise_of_low (hrd ▸ hlow), hmiss .rd _ hrd, releaseData_rd]
    rfl
  · rw [perform_strobeRise_of_low (hwr ▸ hlow), hmiss .wr _ hwr]
    rfl

/-- Settles O10: every other rise is the release alone, and the write strobe releases nothing. -/
theorem riseReleasesTheDataLines : Obligations.RiseReleasesTheDataLines := by
  refine fun s => ⟨fun hlow hother => ?_, fun hlow hother => ?_⟩
  · have hrise := perform_strobeRise_of_not_decode (k := .rd) hlow hother
    rw [releaseData_rd] at hrise
    exact ⟨takenByte s, drawsAfterTaking s, fun _ => taken_of_driven, taken_of_undriven, hrise⟩
  · exact perform_strobeRise_of_not_decode (k := .wr) hlow hother

/-! ### Full cycles -/

section

variable {s : State} {c : Cycle}

/-- A state in the middle of a cycle: the engine, the driven byte, the strobes and the moves to come. -/
def inCycle (s : State) (b : Bte) (driven : Option Byte) (i : Inputs) (rest : List Event) : State :=
  { s with bus := { bte := b, dataOut := driven }, inputs := i, env := { s.env with agenda := rest } }

/-- The strobes while the strobe of a kind is low. -/
def strobeDown (i : Inputs) (k : Kind) : Inputs := { i with rdLow := decide (k = .rd), wrLow := decide (k = .wr) }

theorem strobeDown_low (i : Inputs) (k : Kind) : (strobeDown i k).low k = true := by cases k <;> rfl

/-- The rise that ends a cycle puts the strobes back to what they were before its fall. -/
theorem setStrobe_strobeDown {i : Inputs} (k : Kind) (hrd : i.rdLow = false) (hwr : i.wrLow = false) :
    (strobeDown i k).setStrobe k false = i := by
  obtain ⟨rdLow, wrLow, link⟩ := i
  subst hrd hwr
  cases k <;> rfl

theorem run_inCycle {b : Bte} {o : Option Byte} {i : Inputs} {e : Event} {rest : List Event} {t : State} (n : Nat)
    (h : perform e (inCycle s b o i rest) = .next t) :
    Host.Core.run Sys2Proof.core (n + 1) (inCycle s b o i (e :: rest)) = Host.Core.run Sys2Proof.core n t :=
  run_cons rfl h

/-- The fall that begins a cycle, from IDLE with nothing driven (R122). -/
theorem run_fall {rest : List Event} (n : Nat) (hagenda : s.env.agenda = .strobeFall c :: rest)
    (hrd : s.inputs.rdLow = false) (hwr : s.inputs.wrLow = false) (hidle : s.bus.bte = .idle)
    (hdata : s.bus.dataOut = none) :
    Host.Core.run Sys2Proof.core (n + 1) s =
      Host.Core.run Sys2Proof.core n
        (inCycle s (.decode (.ofCycle c)) none (strobeDown s.inputs c.kind) rest) := by
  have hfall := edgeInIdleIsAccepted (popAgenda rest s) c hrd hwr hidle
  refine run_cons hagenda (hfall.trans ?_)
  rw [inCycle, ← hdata]
  rfl

/-- In the middle of a cycle the dispatch performs what the sampled lines decode to (R123). -/
theorem perform_bte_inCycle {i : Instr} {o : Option Byte} {ins : Inputs} {rest : List Event}
    (hi : decode s.cfg.base (rawOf c) = i) :
    perform .bte (inCycle s (.decode (.ofCycle c)) o ins rest) =
      exec i (inCycle s (.decode (.ofCycle c)) o ins rest) := by
  subst hi
  exact perform_bte_decode (t := .ofCycle c) rfl

/-- After the dispatch the rise is the release of the data lines alone, with the strobes as before the fall (R128). -/
theorem perform_strobeRise_inCycle {b : Bte} {o : Option Byte} {rest : List Event} (k : Kind)
    (hb : ∀ t, b ≠ .decode t) (hrd : s.inputs.rdLow = false) (hwr : s.inputs.wrLow = false) :
    perform (.strobeRise k) (inCycle s b o (strobeDown s.inputs k) rest) =
      .next (releaseData k (inCycle s b o s.inputs rest)) := by
  rw [perform_strobeRise_of_not_decode (strobeDown_low _ _) fun t ht => absurd ht (hb t)]
  change Host.Outcome.next (releaseData k (inCycle s b o ((strobeDown s.inputs k).setStrobe k false) rest)) = _
  rw [setStrobe_strobeDown k hrd hwr]

theorem inCycle_idle {rest : List Event} (hidle : s.bus.bte = .idle) (hdata : s.bus.dataOut = none) :
    inCycle s .idle none s.inputs rest = { s with env := { s.env with agenda := rest } } := by
  rw [inCycle, ← hidle, ← hdata]

theorem decodeCycle_operation_of_ignored {base : BusAddr} (h : c.aen = true ∨ inWindow base c.addr = false) :
    (decodeCycle base c).operation = none := by
  cases haen : c.aen
  case true => rw [decodeCycle_of_aen base haen]; rfl
  case false =>
    have hout : inWindow base c.addr = false := h.resolve_left (by simp [haen])
    rw [decodeCycle_of_outside haen hout]; rfl

/-- With nothing driven a rise leaves all but the host's bookkeeping as it is (R133). -/
theorem releaseData_of_undriven (k : Kind) (hdata : s.bus.dataOut = none) : ∃ v n,
    releaseData k s = { s with env := { s.env with hostRead := v, draws := n } } := by
  cases k
  case wr => exact ⟨_, _, rfl⟩
  case rd =>
    refine ⟨some (takenByte s), drawsAfterTaking s, ?_⟩
    rw [releaseData_rd, ← hdata]

end

/-- Settles O12: the four moves one by one; the dispatch finds an ignored cycle, and what the host takes at the rise
is a free byte. -/
theorem ignoredFullCycleChangesNothing : Obligations.IgnoredFullCycleChangesNothing := by
  intro s c rest hagenda hrd hwr hidle hdata hbase hignored
  have hclass : c.aen = true ∨ inWindow s.cfg.base c.addr = false := by
    refine hignored.imp_right fun hout => Bool.eq_false_iff.mpr fun hin => ?_
    have := (inWindow_iff hbase c.addr).mp hin
    omega
  have hnone : (decode s.cfg.base (rawOf c)).operation = none := by
    rw [decode_rawOf]
    exact decodeCycle_operation_of_ignored hclass
  obtain ⟨v, n, hrelease⟩ := releaseData_of_undriven (s := inCycle s .idle none s.inputs rest) c.kind rfl
  refine ⟨v, n, ?_⟩
  calc Host.Core.run Sys2Proof.core 4 s
    _ = Host.Core.run Sys2Proof.core 3 (inCycle s (.decode (.ofCycle c)) none (strobeDown s.inputs c.kind) _) :=
      run_fall 3 hagenda hrd hwr hidle hdata
    _ = Host.Core.run Sys2Proof.core 2 (inCycle s (.ignore (.ofCycle c)) none (strobeDown s.inputs c.kind) _) :=
      run_inCycle 2 (by rw [perform_bte_inCycle rfl, exec_ignored_of_decode hnone rfl]; rfl)
    _ = Host.Core.run Sys2Proof.core 1 (inCycle s .idle none (strobeDown s.inputs c.kind) _) :=
      run_inCycle 1 (perform_bte_of_dispatched (.inr (.inr rfl)))
    _ = Host.Core.run Sys2Proof.core 0 (releaseData c.kind (inCycle s .idle none s.inputs rest)) :=
      run_inCycle 0 (perform_strobeRise_inCycle c.kind (fun _ => Bte.noConfusion) hrd hwr)
    _ = .next { s with env := { s.env with agenda := rest, hostRead := v, draws := n } } := by
      rw [hrelease, inCycle_idle hidle hdata]
      rfl

/-- The cycle of a read at the base address decodes to the read of Control (R92, R96). -/
theorem decode_read_at_base {base : BusAddr} (hbase : base &&& 0x000F#16 = 0#16) (d : Byte) :
    decode base (rawOf { aen := false, kind := .rd, addr := base, data := d }) = .rdCtrl := by
  have hat := decodeCycle_at_offset hbase .rd Reg.ctrl.offset d
  rw [decodeReg_rd, regAt_offset] at hat
  have hzero : base + Reg.ctrl.offset.setWidth 16 = base := BitVec.add_zero base
  rwa [hzero, ← decode_rawOf] at hat

/-- Settles O13: the four moves one by one; the dispatch drives the stored cell, and the host takes it at the rise. -/
theorem fullReadCycleDeliversControl : Obligations.FullReadCycleDeliversControl := by
  intro s d rest hagenda hrd hwr hidle hdata hbase
  let c : Cycle := { aen := false, kind := .rd, addr := s.cfg.base, data := d }
  have hread : decode s.cfg.base (rawOf c) = .rdCtrl := decode_read_at_base hbase d
  calc Host.Core.run Sys2Proof.core 4 s
    _ = Host.Core.run Sys2Proof.core 3 (inCycle s (.decode (.ofCycle c)) none (strobeDown s.inputs .rd) _) :=
      run_fall 3 hagenda hrd hwr hidle hdata
    _ = Host.Core.run Sys2Proof.core 2
        (inCycle s (.dispatchRead (.ofCycle c)) (some s.regs.ctrl) (strobeDown s.inputs .rd) _) :=
      run_inCycle 2 ((perform_bte_inCycle hread).trans (exec_readInstr_of_decode .ctrl rfl))
    _ = Host.Core.run Sys2Proof.core 1
        (releaseData .rd (inCycle s (.dispatchRead (.ofCycle c)) (some s.regs.ctrl) s.inputs _)) :=
      run_inCycle 1 (perform_strobeRise_inCycle .rd (fun _ => Bte.noConfusion) hrd hwr)
    _ = Host.Core.run Sys2Proof.core 0
        ((inCycle s .idle none s.inputs rest).withEnv
          { s.env with agenda := rest, hostRead := some s.regs.ctrl }) :=
      run_cons rfl (perform_bte_of_dispatched (.inl rfl))
    _ = .next { s with env := { s.env with agenda := rest, hostRead := some s.regs.ctrl } } := by
      rw [inCycle_idle hidle hdata]
      rfl

end Sys2Proof
end

section
/-! Proofs: what a dispatch does, the bus discipline, and who may write the palette (40_bus_engine.md R120, R123, R128,
10_state.md R45(b), 42_palette.md R186). -/

namespace Sys2Proof

open Sys2Proof.Machine

/-! ### The kind of a dispatched operation -/

/-- A register operation is decoded only from a cycle of its own kind (R92). -/
theorem kind_of_decodeCycle_operation {base : BusAddr} {c : Cycle} {k : Kind} {r : Reg} {d : Byte}
    (hop : (decodeCycle base c).operation = some (k, r, d)) : c.kind = k := by
  unfold decodeCycle at hop
  split_ifs at hop
  · cases hop
  · rw [regWordOf, decodeReg_operation] at hop; cases hop; rfl
  · cases hop

theorem kind_of_fetched_operation {base : BusAddr} {t : Transaction} {k : Kind} {r : Reg} {d : Byte}
    (hop : (decode base t.raw).operation = some (k, r, d)) : t.kind = k := by
  rw [Transaction.raw, decode_rawBits] at hop
  exact kind_of_decodeCycle_operation hop

section

variable {s t : State} {tr : Transaction}

/-- What a dispatch does to the bus: a read, whose strobe is the read strobe, drives its value unless the strobe
already rose; nothing else drives; and the engine leaves DECODE (R123, R125, R126). -/
theorem dispatch_bus (hdec : s.bus.bte = .decode tr) (h : perform .bte s = .next t) :
    (∀ tr', t.bus.bte ≠ .decode tr') ∧
      (t.bus.dataOut = s.bus.dataOut ∨ (tr.kind = .rd ∧ tr.deasserted = false)) := by
  rw [perform_bte_decode hdec] at h
  obtain ⟨r, hi⟩ | ⟨r, d, hi⟩ | hnone := eq_readInstr_or_writeInstr_or_ignored (decode s.cfg.base tr.raw)
  · rw [hi, exec_readInstr_of_decode r hdec] at h
    cases h
    have hrd : tr.kind = .rd := kind_of_fetched_operation (by rw [hi, readInstr_operation])
    refine ⟨fun _ => Bte.noConfusion, ?_⟩
    cases hrose : tr.deasserted
    case true => exact .inl rfl
    case false => exact .inr ⟨hrd, rfl⟩
  · rw [hi, exec_writeInstr_of_decode r d hdec] at h
    cases h
    exact ⟨fun _ => Bte.noConfusion, .inl rfl⟩
  · rw [exec_ignored_of_decode hnone hdec] at h
    cases h
    exact ⟨fun _ => Bte.noConfusion, .inl rfl⟩

/-- Outside DECODE the bus engine's own step is the retire (R129). -/
theorem retire_of_not_decode (hdec : ∀ tr, s.bus.bte ≠ .decode tr) (h : perform .bte s = .next t) :
    t = s.withBus { s.bus with bte := .idle } := by
  have hretire (tr : Transaction) (hb : s.bus.bte = .dispatchRead tr ∨ s.bus.bte = .dispatchWrite tr ∨
      s.bus.bte = .ignore tr) : t = s.withBus { s.bus with bte := .idle } := by
    rw [perform_bte_of_dispatched hb] at h
    exact (Host.Outcome.next.inj h).symm
  cases hb : s.bus.bte with
  | idle => simp [perform, bteStep, hb] at h
  | decode tr => exact absurd hb (hdec tr)
  | dispatchRead tr => exact hretire tr (.inl hb)
  | dispatchWrite tr => exact hretire tr (.inr (.inl hb))
  | ignore tr => exact hretire tr (.inr (.inr hb))

/-! ### The bus discipline -/

theorem busInv_congr (hinv : BusInv s) (hbus : t.bus = s.bus) (hlow : ∀ k, t.inputs.low k = s.inputs.low k)
    (hcfg : t.cfg = s.cfg) : BusInv t where
  oneStrobe := by
    have hrd : t.inputs.rdLow = s.inputs.rdLow := hlow .rd
    have hwr : t.inputs.wrLow = s.inputs.wrLow := hlow .wr
    rw [hrd, hwr]
    exact hinv.oneStrobe
  drivenWhileLow := by
    have hrd : t.inputs.rdLow = s.inputs.rdLow := hlow .rd
    rw [hbus, hrd]
    exact hinv.drivenWhileLow
  decodeWhileLow := fun tr => by
    rw [hbus, hlow]
    exact hinv.decodeWhileLow tr
  resetQuiet := hcfg ▸ hinv.resetQuiet

/-- A fall is legal with both strobes high, so nothing is driven and no transaction in DECODE waits for its rise: the
new strobe is the only one low, and a transaction made now is its own. -/
theorem strobeFall_keeps_busInv {c : Cycle} (hinv : BusInv s) (h : perform (.strobeFall c) s = .next t) :
    BusInv t := by
  obtain ⟨hrd, hwr, hinputs, hbte⟩ := strobeFall_next h
  have hdown : t.inputs = strobeDown s.inputs c.kind := hinputs.trans (setStrobe_low_of_both_high hrd hwr)
  have hundriven : ¬ s.bus.dataOut.isSome = true := fun hd => by simp [hinv.drivenWhileLow hd] at hrd
  have hdata : t.bus.dataOut = s.bus.dataOut := by
    obtain ⟨-, ht⟩ | ⟨-, ht⟩ := hbte <;> rw [ht] <;> rfl
  refine ⟨?_, fun hd => absurd (hdata ▸ hd) hundriven, fun tr hdec hwait => ?_, perform_cfg h ▸ hinv.resetQuiet⟩
  · rw [hdown, strobeDown]
    cases c.kind <;> simp
  · obtain ⟨-, ht⟩ | ⟨-, ht⟩ := hbte
    · rw [ht] at hdec
      cases hdec
      rw [hdown]
      exact strobeDown_low s.inputs c.kind
    · rw [ht] at hdec
      have hlow := hinv.decodeWhileLow tr hdec hwait
      cases hk : tr.kind <;> simp [Inputs.low, hk, hrd, hwr] at hlow

/-- A rise makes no strobe low; the read strobe's rise releases the data lines, and a transaction whose own strobe
rises notes it. -/
theorem strobeRise_keeps_busInv {k : Kind} (hinv : BusInv s) (h : perform (.strobeRise k) s = .next t) :
    BusInv t := by
  obtain ⟨hlow, hinputs, hdata, hcfg, -, -, -, -, hbte⟩ := strobeRise_next h
  refine ⟨?_, ?_, fun tr hdec hwait => ?_, hcfg ▸ hinv.resetQuiet⟩
  · rw [hinputs]
    cases k <;> simp [Inputs.setStrobe]
  · rw [hdata, hinputs]
    cases k
    case rd => simp
    case wr => exact hinv.drivenWhileLow
  · obtain ⟨_, -, -, hnoted, -, -⟩ | ⟨hother, hsame, -, -⟩ := hbte
    · rw [hnoted] at hdec
      cases hdec
      cases hwait
    · rw [hsame] at hdec
      have hkept := hinv.decodeWhileLow tr hdec hwait
      have hne := hother tr hdec
      rw [hinputs]
      cases k <;> cases hk : tr.kind <;> simp_all [Inputs.setStrobe, Inputs.low]

/-- A read drives only while its strobe is low, which the transaction in DECODE says; a retire drives nothing new. -/
theorem bte_keeps_busInv (hinv : BusInv s) (h : perform .bte s = .next t) : BusInv t := by
  have hinputs : t.inputs = s.inputs := by rw [bte_next h]; rfl
  have hcfg : t.cfg = s.cfg := perform_cfg h
  have hone : ¬ (t.inputs.rdLow = true ∧ t.inputs.wrLow = true) := hinputs ▸ hinv.oneStrobe
  by_cases hdecode : ∃ tr, s.bus.bte = .decode tr
  · obtain ⟨tr, hdec⟩ := hdecode
    obtain ⟨hleft, hdata⟩ := dispatch_bus hdec h
    refine ⟨hone, fun hd => ?_, fun tr' htr' => absurd htr' (hleft tr'), hcfg ▸ hinv.resetQuiet⟩
    rw [hinputs]
    obtain hsame | ⟨hrd, hwait⟩ := hdata
    · exact hinv.drivenWhileLow (hsame ▸ hd)
    · have hlow := hinv.decodeWhileLow tr hdec hwait
      rwa [hrd] at hlow
  · have ht := retire_of_not_decode (fun tr hdec => hdecode ⟨tr, hdec⟩) h
    refine ⟨hone, ?_, fun tr htr => ?_, hcfg ▸ hinv.resetQuiet⟩
    · rw [hinputs, ht]
      exact hinv.drivenWhileLow
    · rw [ht] at htr
      cases htr

/-- A reset drives nothing and leaves no transaction in DECODE, by the parameters' own rule (R312). -/
theorem reset_keeps_busInv (hinv : BusInv s) (p : Palette) : BusInv (resetEvent p s) := by
  obtain ⟨hquiet, hnodecode⟩ := hinv.resetQuiet
  refine ⟨hinv.oneStrobe, fun hd => ?_, fun tr htr => absurd htr (hnodecode tr), hinv.resetQuiet⟩
  have hnone : (resetEvent p s).bus.dataOut = none := hquiet
  rw [hnone] at hd
  cases hd

theorem perform_keeps_busInv {e : Event} (hinv : BusInv s) (h : perform e s = .next t) : BusInv t := by
  cases e with
  | strobeFall c => exact strobeFall_keeps_busInv hinv h
  | strobeRise k => exact strobeRise_keeps_busInv hinv h
  | bte => exact bte_keeps_busInv hinv h
  | reset p => exact reset_next h ▸ reset_keeps_busInv hinv p
  | _ => exact busInv_congr hinv (perform_keeps .bus h (by simp)) (perform_keeps .strobes h (by simp)) (perform_cfg h)

end

/-- Settles O57, event by event. -/
theorem everyStepKeepsTheBusDiscipline : Obligations.EveryStepKeepsTheBusDiscipline :=
  fun _ _ hinv h =>
    step_keeps (P := BusInv) (fun _ _ hs => busInv_congr hs rfl (fun _ => rfl) rfl)
      (fun _ _ _ hs he => perform_keeps_busInv hs he) hinv h

/-! ### Who may write the palette and its cursor -/

/-- Of the register writes only Palette Data stores in the table (R186). -/
theorem regsAfterWrite_pal {r : Reg} (hr : r ≠ .pald) (d : Byte) (s : State) :
    (regsAfterWrite r d s).pal = s.regs.pal := by
  cases r
  case pald => exact absurd rfl hr
  all_goals rfl

/-- Only the two palette registers move the cursor (10_state.md R28). -/
theorem regsAfterWrite_cursor {r : Reg} (hdata : r ≠ .pald) (haddr : r ≠ .pala) (d : Byte) (s : State) :
    (regsAfterWrite r d s).palIndex = s.regs.palIndex ∧ (regsAfterWrite r d s).palChannel = s.regs.palChannel := by
  cases r
  case pald => exact absurd rfl hdata
  case pala => exact absurd rfl haddr
  all_goals exact ⟨rfl, rfl⟩

/-- What the bus engine's own step does to the register side: nothing, or the dispatched write. -/
theorem bte_regs {s t : State} (h : perform .bte s = .next t) :
    t.regs = s.regs ∨ ∃ tr r d, s.bus.bte = .decode tr ∧ decode s.cfg.base tr.raw = writeInstr d r ∧
      t.regs = regsAfterWrite r d s := by
  by_cases hdecode : ∃ tr, s.bus.bte = .decode tr
  · obtain ⟨tr, hdec⟩ := hdecode
    rw [perform_bte_decode hdec] at h
    obtain ⟨r, hi⟩ | ⟨r, d, hi⟩ | hnone := eq_readInstr_or_writeInstr_or_ignored (decode s.cfg.base tr.raw)
    · rw [hi, exec_readInstr] at h
      cases h
      exact .inl rfl
    · rw [hi, exec_writeInstr] at h
      cases h
      exact .inr ⟨tr, r, d, hdec, hi, rfl⟩
    · rw [exec_ignored hnone] at h
      cases h
      exact .inl rfl
  · rw [retire_of_not_decode (fun tr hdec => hdecode ⟨tr, hdec⟩) h]
    exact .inl rfl

/-- Settles O25: of the events but the reset only the dispatch writes the palette and its cursor, and of the dispatched
writes only those of the two palette registers. -/
theorem onlyPaletteDataWritesChangeTheTable : Obligations.OnlyPaletteDataWritesChangeTheTable := by
  intro e s t h hreset
  by_cases hbte : e = .bte
  case neg =>
    have hnot : StatePart.palette ∉ writtenParts e := by
      cases e
      case bte => exact absurd rfl hbte
      case reset p => exact absurd rfl (hreset p)
      all_goals simp
    obtain ⟨hpal, hindex, hchannel⟩ := perform_keeps .palette h hnot
    exact ⟨fun hne => absurd hpal hne, fun hne => absurd hne (not_or.mpr ⟨not_not.mpr hindex, not_not.mpr hchannel⟩)⟩
  case pos =>
    subst hbte
    obtain hsame | ⟨tr, r, d, hdec, hi, hregs⟩ := bte_regs h
    · rw [hsame]
      exact ⟨fun hne => absurd rfl hne, fun hne => by simp at hne⟩
    · rw [hregs]
      refine ⟨fun hne => ⟨rfl, tr, d, hdec, ?_⟩, fun hne => ⟨rfl, tr, d, hdec, ?_⟩⟩
      · have hr : r = .pald := by
          by_contra hr
          exact hne (regsAfterWrite_pal hr d s)
        subst hr
        exact hi
      · by_cases hdata : r = .pald
        · subst hdata
          exact .inl hi
        · have haddr : r = .pala := by
            by_contra haddr
            obtain ⟨hindex, hchannel⟩ := regsAfterWrite_cursor hdata haddr d s
            exact hne.elim (· hindex) (· hchannel)
          subst haddr
          exact .inr hi

end Sys2Proof
end

section
/-! Proofs: the output stream, the sticky flags and counters, and the memory, step by step (10_state.md R33, R38, R41,
R45(f), 20_memory.md R63). -/

namespace Sys2Proof

open Sys2Proof.Machine

/-! ### What each event records -/

section

variable {s t : State} {e : Event}

/-- An event that is neither a tick nor a reset records nothing, or one fault with its log entry; a bounds fault is
recorded by the submission of its command alone (R286, R291). -/
theorem perform_records (h : perform e s = .next t) (htick : ∀ u, e ≠ .tick u) (hreset : ∀ p, e ≠ .reset p) :
    (t.faults = s.faults ∧ t.out = s.out) ∨
      ∃ f, (∀ cmd, f = .blitBounds cmd → e = .blitSubmit cmd) ∧ t.faults = s.faults.record f ∧
        t.out = s.out ++ [.faultLog f] := by
  cases e with
  | strobeFall c =>
    obtain ⟨-, -, -, ⟨-, ht⟩ | ⟨-, ht⟩⟩ := strobeFall_next h
    · rw [ht]; exact .inl ⟨rfl, rfl⟩
    · rw [ht]; exact .inr ⟨.protocolTiming .edgeWhileBusy, fun _ hf => (nomatch hf), rfl, rfl⟩
  | strobeRise k =>
    obtain ⟨-, -, -, -, -, -, -, -, ⟨_, -, -, -, hfaults, hout⟩ | ⟨-, -, hfaults, hout⟩⟩ := strobeRise_next h
    · exact .inr ⟨.protocolTiming .missedDeadline, fun _ hf => (nomatch hf), hfaults, hout⟩
    · exact .inl ⟨hfaults, hout⟩
  | blitSubmit cmd =>
    obtain ⟨-, ht | ⟨-, ht⟩ | ⟨-, -, -, -, ht⟩⟩ := blitSubmit_next h
    · rw [ht]; exact .inl ⟨rfl, rfl⟩
    · rw [ht]; exact .inr ⟨.blitBounds cmd, fun _ hf => by cases hf; rfl, rfl, rfl⟩
    · rw [ht]; exact .inl ⟨rfl, rfl⟩
  | hostMemWrite a v => rw [(hostMemWrite_next h).2]; exact .inl ⟨rfl, rfl⟩
  | bte => rw [bte_next h]; exact .inl ⟨rfl, rfl⟩
  | tick u => exact absurd rfl (htick u)
  | lateRead k => rw [lateRead_frame h]; exact .inl ⟨rfl, rfl⟩
  | earlyLookup k ch => rw [earlyLookup_next h]; exact .inl ⟨rfl, rfl⟩
  | blitSlice n => rw [blitSlice_frame h]; exact .inl ⟨rfl, rfl⟩
  | reset p => exact absurd rfl (hreset p)
  | linkActive b => rw [linkActive_next h]; exact .inl ⟨rfl, rfl⟩

end

theorem tickEvent_faults (s : State) :
    (tickEvent s).faults = s.faults ∨
      (tickEvent s).faults = s.faults.record (.outOfRangeConfiguration s.regs.sh) := by
  rw [tickEvent_eq_ite]
  split_ifs
  · rw [vblankEvent_faults, latch_faults]
    split_ifs
    · exact .inl rfl
    · exact .inr rfl
  · exact .inl rfl

theorem tickArm_faults (u : Bool) (s : State) :
    (tickArm u s).faults = s.faults ∨ (tickArm u s).faults = s.faults.record (.scanoutUnderrun s.pix.line) := by
  by_cases hcol : s.pix.col = 0
  · rw [tickArm_zero hcol, armLine_faults]
    split_ifs
    · exact .inr rfl
    · exact .inl rfl
  · exact .inl (by rw [tickArm_else hcol])

theorem perform_out_grows {e : Event} {s t : State} (h : perform e s = .next t) : s.out <+: t.out := by
  cases e with
  | tick u => rw [tick_next h]; exact tick_out_grows u s
  | reset p => rw [reset_next h]; exact List.prefix_rfl
  | _ =>
    obtain ⟨-, hout⟩ | ⟨f, -, -, hout⟩ := perform_records h (by simp) (by simp)
    · rw [hout]
    · rw [hout]; exact List.prefix_append _ _

/-- Settles O53: every event but a reset appends to the output, a reset keeps it, and no event writes the
parameters. -/
theorem outputOnlyGrowsAndParametersStay : Obligations.OutputOnlyGrowsAndParametersStay := by
  intro s t hstep
  obtain ⟨e, v, h⟩ := step_cases hstep
  exact ⟨perform_out_grows (s := s.withEnv v) h, perform_cfg (s := s.withEnv v) h⟩

/-! ### Flags stay and counters grow -/

/-- No flag of the first record is cleared in the second, and no counter is lower there (10_state.md R33). -/
def FaultsGrow (f g : FaultRecord) : Prop :=
  (f.fBus = true → g.fBus = true) ∧ (f.fCfg = true → g.fCfg = true) ∧ (f.fUnderrun = true → g.fUnderrun = true) ∧
    (f.fBlit = true → g.fBlit = true) ∧ f.busFaultCount ≤ g.busFaultCount ∧ f.underrunCount ≤ g.underrunCount

theorem faultsGrow_refl (f : FaultRecord) : FaultsGrow f f := ⟨id, id, id, id, le_rfl, le_rfl⟩

theorem faultsGrow_trans {f g k : FaultRecord} (hfg : FaultsGrow f g) (hgk : FaultsGrow g k) : FaultsGrow f k := by
  obtain ⟨hbus, hcfg, hunderrun, hblit, hbuses, hunderruns⟩ := hfg
  obtain ⟨hbus', hcfg', hunderrun', hblit', hbuses', hunderruns'⟩ := hgk
  exact ⟨hbus' ∘ hbus, hcfg' ∘ hcfg, hunderrun' ∘ hunderrun, hblit' ∘ hblit, hbuses.trans hbuses',
    hunderruns.trans hunderruns'⟩

theorem faultsGrow_record (f : FaultRecord) (i : FaultInfo) : FaultsGrow f (f.record i) := by
  cases i <;> simp [FaultsGrow, FaultRecord.record]

theorem tick_faultsGrow (u : Bool) (s : State) : FaultsGrow s.faults (tick u s).faults := by
  have hevent : FaultsGrow s.faults (tickEvent s).faults := by
    obtain h | h := tickEvent_faults s <;> rw [h]
    · exact faultsGrow_refl _
    · exact faultsGrow_record _ _
  have harm : FaultsGrow (tickEvent s).faults (tickArm u (tickEvent s)).faults := by
    obtain h | h := tickArm_faults u (tickEvent s) <;> rw [h]
    · exact faultsGrow_refl _
    · exact faultsGrow_record _ _
  rw [tick_faults]
  exact faultsGrow_trans hevent harm

/-- Settles O54: recording a fault only sets flags and counts up, and no event but a reset does more to the record. -/
theorem flagsAndCountersNeverDecrease : Obligations.FlagsAndCountersNeverDecrease := by
  intro e s t h hreset
  change FaultsGrow s.faults t.faults
  cases e with
  | tick u => rw [tick_next h]; exact tick_faultsGrow u s
  | reset p => exact absurd rfl (hreset p)
  | _ =>
    obtain ⟨hfaults, -⟩ | ⟨f, -, hfaults, -⟩ := perform_records h (by simp) (by simp)
    · rw [hfaults]; exact faultsGrow_refl _
    · rw [hfaults]; exact faultsGrow_record _ _

/-! ### The memory -/

theorem memInv_congr {s t : State} (hinv : MemInv s) (hmem : t.mem = s.mem) (hcfg : t.cfg = s.cfg) : MemInv t :=
  ⟨hmem ▸ hinv.canonical, hmem ▸ hcfg ▸ hinv.inside⟩

theorem perform_keeps_memInv {e : Event} {s t : State} (hinv : MemInv s) (h : perform e s = .next t) : MemInv t := by
  cases e with
  | hostMemWrite a v =>
    obtain ⟨ha, rfl⟩ := hostMemWrite_next h
    exact ⟨Memory.write_wf hinv.canonical a v, Memory.write_within hinv.inside ha⟩
  | blitSlice n =>
    obtain ⟨j, -, -, -, hn, hbounds, rfl⟩ := blitSlice_next h
    exact ⟨blitBytes_wf hinv.canonical, blitBytes_within hinv.inside hbounds hn⟩
  | _ => exact memInv_congr hinv (perform_keeps .mem h (by simp)) (perform_cfg h)

/-- Settles O56: only a write through the window and a slice write memory, each inside its capacity. -/
theorem everyStepKeepsMemoryCanonical : Obligations.EveryStepKeepsMemoryCanonical :=
  fun _ _ hinv h =>
    step_keeps (P := MemInv) (fun _ _ hs => memInv_congr hs rfl rfl) (fun _ _ _ hs he => perform_keeps_memInv hs he)
      hinv h

/-- Settles O51: the window's write is `Memory.write` at the address, if memory has it. -/
theorem hostWindowWritesOneByte : Obligations.HostWindowWritesOneByte := by
  intro s a v hpresent hwf
  refine ⟨fun ha => ⟨s.mem.write a v, ?_, Memory.read_write_same hwf a v, fun b hb => ?_⟩, fun ha => ?_⟩
  · rw [perform, hostMemWrite, if_pos hpresent, if_pos ha]
    rfl
  · exact Memory.read_write_other v hb
  · rw [perform, hostMemWrite, if_pos hpresent, if_neg ha.not_gt]

end Sys2Proof
end

section
/-! Proofs: the blit engine's port, its slices and its invariant (47_arbiter_blit.md R267 to R281). -/

namespace Sys2Proof

open Sys2Proof.Machine

/-! ### The answers of a submission, in the order of R270 -/

section

variable {s : State} {cmd : BlitCmd}

theorem blitSubmit_busy (hpresent : s.cfg.blitPresent = true) (hbusy : s.regs.blitEn = false ∨ s.blit ≠ none) :
    perform (.blitSubmit cmd) s = .next (answerBlit .busy s) := by
  rw [perform, blitSubmit, if_pos hpresent]
  cases hen : s.regs.blitEn
  case false => rfl
  case true =>
    have hoccupied : s.blit.isSome = true :=
      Option.isSome_iff_ne_none.mpr (hbusy.resolve_left (by simp [hen]))
    rw [hoccupied]
    rfl

section

variable (hpresent : s.cfg.blitPresent = true) (hen : s.regs.blitEn = true) (hfree : s.blit = none)

include hpresent hen hfree

theorem blitSubmit_boundsError (hbounds : inBounds s.cfg.memCapacity cmd s.pix.act.stride = false) :
    perform (.blitSubmit cmd) s = .next (answerBlit .boundsError (raise (.blitBounds cmd) s)) := by
  simp [perform, blitSubmit, hpresent, hen, hfree, hbounds]

theorem blitSubmit_empty (hempty : cmd.width * cmd.height = 0) :
    perform (.blitSubmit cmd) s = .next (answerBlit .success s) := by
  have hbounds : inBounds s.cfg.memCapacity cmd s.pix.act.stride = true := inBounds_empty hempty
  rw [perform, blitSubmit, if_pos hpresent, hen, hfree, hbounds, if_pos hempty]
  rfl

theorem blitSubmit_accepted (hbounds : inBounds s.cfg.memCapacity cmd s.pix.act.stride = true)
    (hbytes : cmd.width * cmd.height ≠ 0) (hlegal : illegalOverlap cmd s.pix.act.stride = false) :
    perform (.blitSubmit cmd) s = .next
      (answerBlit .success (s.withBlit (some { cmd := cmd, pitch := s.pix.act.stride, next := 0 }))) := by
  rw [perform, blitSubmit, if_pos hpresent, hen, hfree, hbounds, if_neg hbytes, hlegal]
  rfl

end

end

/-- Settles O43: the first two tests of R270. -/
theorem busySubmissionChangesNothing : Obligations.BusySubmissionChangesNothing :=
  fun _ _ hpresent hbusy => blitSubmit_busy hpresent hbusy

/-- Settles O44: a region past the capacity fails the bounds, which are tested before the overlap. -/
theorem outOfBoundsBlitIsRejected : Obligations.OutOfBoundsBlitIsRejected := by
  intro s cmd hpresent hen hfree hw hh hout
  have hbounds : inBounds s.cfg.memCapacity cmd s.pix.act.stride = false := by
    rw [Bool.eq_false_iff, ne_eq, inBounds_iff hw hh]
    rintro ⟨hdst, hsrc⟩
    unfold regionEnd at hdst hsrc
    obtain hpast | ⟨hop, hpast⟩ := hout
    · omega
    · have := hsrc.resolve_left hop
      omega
  rw [blitSubmit_boundsError hpresent hen hfree hbounds]
  rfl

/-- Settles O45: an empty command is inside every memory; a command that is inside and not illegal is accepted. -/
theorem blitInsideMemoryIsAccepted : Obligations.BlitInsideMemoryIsAccepted := by
  intro s cmd hpresent hen hfree
  refine ⟨fun hempty => ?_, fun hw hh hdst hsrc => ?_⟩
  · rw [blitSubmit_empty hpresent hen hfree hempty]
    rfl
  · have hbounds : inBounds s.cfg.memCapacity cmd s.pix.act.stride = true :=
      (inBounds_iff hw hh).mpr ⟨hdst, hsrc.imp_right fun ⟨hfits, _⟩ => hfits⟩
    have hlegal : illegalOverlap cmd s.pix.act.stride = false := by
      obtain hfill | ⟨-, hdisjoint⟩ := hsrc
      · simp [illegalOverlap, hfill]
      · rw [illegalOverlap, (regionsMeet_eq_false_iff cmd s.pix.act.stride).mpr hdisjoint, Bool.and_false]
    rw [blitSubmit_accepted hpresent hen hfree hbounds (Nat.mul_pos hw hh).ne' hlegal]
    rfl

/-! ### The invariant -/

section

variable {s t : State}

theorem blitInv_congr (hinv : BlitInv s) (hblit : t.blit = s.blit) (hfault : t.faults.fBlit = s.faults.fBlit)
    (hcfg : t.cfg = s.cfg) : BlitInv t where
  absent := by rw [hblit, hfault, hcfg]; exact hinv.absent
  jobOk := by rw [hblit, hcfg]; exact hinv.jobOk

/-- Only a submission and a reset write the bounds flag (R291). -/
theorem perform_fBlit {e : Event} (h : perform e s = .next t) (hsubmit : ∀ cmd, e ≠ .blitSubmit cmd)
    (hreset : ∀ p, e ≠ .reset p) : t.faults.fBlit = s.faults.fBlit := by
  cases e with
  | tick u =>
    have hevent : (tickEvent s).faults.fBlit = s.faults.fBlit := by
      obtain hsame | hraised := tickEvent_faults s
      · rw [hsame]
      · rw [hraised]; rfl
    have harm : (tickArm u (tickEvent s)).faults.fBlit = (tickEvent s).faults.fBlit := by
      obtain hsame | hraised := tickArm_faults u (tickEvent s)
      · rw [hsame]
      · rw [hraised]; rfl
    rw [tick_next h, tick_faults, harm, hevent]
  | reset p => exact absurd rfl (hreset p)
  | _ =>
    obtain ⟨hfaults, -⟩ | ⟨f, hf, hfaults, -⟩ := perform_records h (by simp) (by simp)
    · rw [hfaults]
    · rw [hfaults]
      cases f with
      | blitBounds cmd => exact absurd (hf cmd rfl) (hsubmit cmd)
      | _ => rfl

/-- An accepted command lies inside memory, has a byte and no illegal overlap (R270, R271, R281). -/
theorem blitSubmit_keeps_blitInv {cmd : BlitCmd} (hinv : BlitInv s) (h : perform (.blitSubmit cmd) s = .next t) :
    BlitInv t := by
  have hcfg := perform_cfg h
  obtain ⟨hpresent, hcases⟩ := blitSubmit_next h
  refine ⟨fun habsent => by simp [hcfg, hpresent] at habsent, fun j hj => ?_⟩
  rw [hcfg] at hj ⊢
  obtain ht | ⟨-, ht⟩ | ⟨-, hbounds, hbytes, hlegal, ht⟩ := hcases
  · rw [ht] at hj
    exact hinv.jobOk j hj
  · rw [ht] at hj
    exact hinv.jobOk j hj
  · obtain hj | hj := hj
    · rw [ht] at hj
      cases hj
      exact ⟨hbounds, Nat.pos_of_ne_zero hbytes, hlegal⟩
    · exact hinv.jobOk j (.inr hj)

theorem advance_eq_none_iff (j : BlitJob) (n : Nat) : j.advance n = none ↔ j.next + n = j.cmd.total := by
  unfold BlitJob.advance
  split_ifs with hdone <;> simp [hdone]

theorem eq_of_advance_eq_some {j j' : BlitJob} {n : Nat} (h : j.advance n = some j') :
    j' = { j with next := j.next + n } := by
  unfold BlitJob.advance at h
  split_ifs at h
  cases h
  rfl

/-- A slice moves on inside its job, and a job without a byte left is done (R273, R276). -/
theorem blitSlice_keeps_blitInv {n : Nat} (hinv : BlitInv s) (h : perform (.blitSlice n) s = .next t) :
    BlitInv t := by
  obtain ⟨j, hblit, -, -, hn, -, rfl⟩ := blitSlice_next h
  refine ⟨fun habsent => ?_, fun j' hj => ?_⟩
  · have hnone := (hinv.absent habsent).1
    rw [hblit] at hnone
    cases hnone
  · obtain hj | hj := hj
    · obtain ⟨hbounds, -, hlegal⟩ := hinv.jobOk j (.inl hblit)
      have hleft : j.next + n ≠ j.cmd.total := fun hdone => by
        have hnone : some j' = none := hj.symm.trans ((advance_eq_none_iff j n).mpr hdone)
        cases hnone
      obtain rfl := eq_of_advance_eq_some hj
      exact ⟨hbounds, lt_of_le_of_ne hn hleft, hlegal⟩
    · exact hinv.jobOk j' (.inr hj)

theorem reset_keeps_blitInv (hinv : BlitInv s) (p : Palette) : BlitInv (resetEvent p s) where
  absent := fun habsent => by
    obtain ⟨-, -, hfault, hblit⟩ := hinv.absent habsent
    exact ⟨hblit, hfault, hfault, hblit⟩
  jobOk := fun j hj => hinv.jobOk j (.inr (hj.elim id id))

theorem perform_keeps_blitInv {e : Event} (hinv : BlitInv s) (h : perform e s = .next t) : BlitInv t := by
  cases e with
  | blitSubmit cmd => exact blitSubmit_keeps_blitInv hinv h
  | blitSlice n => exact blitSlice_keeps_blitInv hinv h
  | reset p => exact reset_next h ▸ reset_keeps_blitInv hinv p
  | _ =>
    exact blitInv_congr hinv (perform_keeps .blit h (by simp)) (perform_fBlit h (by simp) (by simp)) (perform_cfg h)

end

/-- Settles O59, event by event. -/
theorem everyStepKeepsTheBlitSound : Obligations.EveryStepKeepsTheBlitSound :=
  fun _ _ hinv h =>
    step_keeps (P := BlitInv) (fun _ _ hs => blitInv_congr hs rfl rfl rfl)
      (fun _ _ _ hs he => perform_keeps_blitInv hs he) hinv h

/-! ### The addresses of a job -/

section

variable {j : BlitJob} {k q : Nat}

theorem row_and_column_lt (hk : k < j.cmd.total) :
    k / j.cmd.width < j.cmd.height ∧ k % j.cmd.width < j.cmd.width := by
  have hw : 0 < j.cmd.width := Nat.pos_of_ne_zero fun h => by simp [BlitCmd.total, h] at hk
  exact ⟨Nat.div_lt_of_lt_mul hk, Nat.mod_lt _ hw⟩

/-- No source byte of a legal copy or xor is a destination byte (R270). -/
theorem src_ne_dst (hlegal : illegalOverlap j.cmd j.pitch = false) (hop : j.cmd.op ≠ .fill) (hk : k < j.cmd.total)
    (hq : q < j.cmd.total) : regionAddr j j.cmd.src k ≠ regionAddr j j.cmd.dst q := by
  have hdisjoint : regionsMeet j.cmd j.pitch = false := by simpa [illegalOverlap, hop] using hlegal
  obtain ⟨hkr, hkc⟩ := row_and_column_lt hk
  obtain ⟨hqr, hqc⟩ := row_and_column_lt hq
  exact (regionsMeet_eq_false_iff j.cmd j.pitch).mp hdisjoint _ _ _ _ hkr hqr hkc hqc

/-- Two bytes at one place of the destination are at one place of the source. -/
theorem src_eq_of_dst_eq (h : regionAddr j j.cmd.dst k = regionAddr j j.cmd.dst q) :
    regionAddr j j.cmd.src k = regionAddr j j.cmd.src q := by
  unfold regionAddr at h ⊢
  omega

/-- Rows no longer than the pitch share no byte. -/
theorem eq_of_dst_eq (hpitch : j.cmd.width ≤ j.pitch) (hk : k < j.cmd.total) (hq : q < j.cmd.total)
    (h : regionAddr j j.cmd.dst k = regionAddr j j.cmd.dst q) : k = q := by
  obtain ⟨-, hkc⟩ := row_and_column_lt hk
  obtain ⟨-, hqc⟩ := row_and_column_lt hq
  have hrow {i : Nat} (hi : i % j.cmd.width < j.cmd.width) :
      (i % j.cmd.width + i / j.cmd.width * j.pitch) / j.pitch = i / j.cmd.width := by
    rw [Nat.add_mul_div_right _ _ (by omega), Nat.div_eq_of_lt (hi.trans_le hpitch), Nat.zero_add]
  have hsame : k % j.cmd.width + k / j.cmd.width * j.pitch = q % j.cmd.width + q / j.cmd.width * j.pitch := by
    unfold regionAddr at h
    omega
  have hrows : k / j.cmd.width = q / j.cmd.width := by rw [← hrow hkc, hsame, hrow hqc]
  have hcols : k % j.cmd.width = q % j.cmd.width := by
    rw [hrows] at hsame
    omega
  rw [← Nat.div_add_mod k j.cmd.width, hrows, hcols, Nat.div_add_mod]

end

/-! ### What the bytes of a slice hold -/

section

variable {fill : Byte} {j : BlitJob} {m : Memory} {start n k : Nat}

theorem blitValue_fill (hop : j.cmd.op = .fill) (m : Memory) (k : Nat) : blitValue fill j m k = fill := by
  rw [blitValue, hop]

theorem blitValue_copy (hop : j.cmd.op = .copy) (m : Memory) (k : Nat) :
    blitValue fill j m k = m.read (regionAddr j j.cmd.src k) := by
  rw [blitValue, hop]

theorem blitValue_xor (hop : j.cmd.op = .xor) (m : Memory) (k : Nat) :
    blitValue fill j m k = m.read (regionAddr j j.cmd.dst k) ^^^ m.read (regionAddr j j.cmd.src k) := by
  rw [blitValue, hop]

/-- The bytes before the last one, then the last one. -/
theorem blitBytes_succ_last (fill : Byte) (j : BlitJob) (start n : Nat) (m : Memory) :
    blitBytes fill j start (n + 1) m = blitByte fill j (blitBytes fill j start n m) (start + n) :=
  blitBytes_append fill j start n 1 m

/-- If no byte's value depends on the bytes written before it, and bytes at one address have one value, then each
destination byte of a slice holds the value that memory as it was before gives it. -/
theorem blitBytes_read_dst (hwf : m.wf = true)
    (hstable : ∀ i, i < n →
      blitValue fill j (blitBytes fill j start i m) (start + i) = blitValue fill j m (start + i))
    (hcoherent : ∀ k q, start ≤ k → k < start + n → start ≤ q → q < start + n →
      regionAddr j j.cmd.dst k = regionAddr j j.cmd.dst q → blitValue fill j m k = blitValue fill j m q)
    (hk : start ≤ k) (hkn : k < start + n) :
    (blitBytes fill j start n m).read (regionAddr j j.cmd.dst k) = blitValue fill j m k := by
  induction n with
  | zero => omega
  | succ n ih =>
    rw [blitBytes_succ_last, blitByte, Memory.read_write (blitBytes_wf hwf), hstable n n.lt_succ_self]
    split_ifs with hlast
    · exact (hcoherent k (start + n) hk hkn (by omega) (by omega) hlast).symm
    · have hearlier : k < start + n := by
        have hne : k ≠ start + n := fun h => hlast (h ▸ rfl)
        omega
      exact ih (fun i hi => hstable i (by omega)) (fun k q h1 h2 h3 h4 => hcoherent k q h1 (by omega) h3 (by omega))
        hearlier

/-- The value of a byte in a slice of a legal job is that of memory as it was before, for a fill, a copy, or an xor of
rows that share no byte (R273, R276). -/
theorem blitBytes_read (hwf : m.wf = true) (hlegal : illegalOverlap j.cmd j.pitch = false)
    (hn : start + n ≤ j.cmd.total) (hxor : j.cmd.op = .xor → j.cmd.width ≤ j.pitch ∨ n = 1)
    (hk : start ≤ k) (hkn : k < start + n) :
    (blitBytes fill j start n m).read (regionAddr j j.cmd.dst k) = blitValue fill j m k := by
  have hsrc (hop : j.cmd.op ≠ .fill) (i : Nat) (hi : i < n) :
      (blitBytes fill j start i m).read (regionAddr j j.cmd.src (start + i)) =
        m.read (regionAddr j j.cmd.src (start + i)) :=
    blitBytes_read_other fun q _ hq => src_ne_dst hlegal hop (by omega) (by omega)
  cases hop : j.cmd.op with
  | fill =>
    refine blitBytes_read_dst hwf (fun i hi => ?_) (fun k q _ _ _ _ hsame => ?_) hk hkn
    · rw [blitValue_fill hop, blitValue_fill hop]
    · rw [blitValue_fill hop, blitValue_fill hop]
  | copy =>
    refine blitBytes_read_dst hwf (fun i hi => ?_) (fun k q _ _ _ _ hsame => ?_) hk hkn
    · rw [blitValue_copy hop, blitValue_copy hop, hsrc (by simp [hop]) i hi]
    · rw [blitValue_copy hop, blitValue_copy hop, src_eq_of_dst_eq hsame]
  | xor =>
    have hinj (k q : Nat) (hk : start ≤ k) (hkn : k < start + n) (hq : start ≤ q) (hqn : q < start + n)
        (hsame : regionAddr j j.cmd.dst k = regionAddr j j.cmd.dst q) : k = q := by
      obtain hpitch | hone := hxor hop
      · exact eq_of_dst_eq hpitch (by omega) (by omega) hsame
      · omega
    refine blitBytes_read_dst hwf (fun i hi => ?_) (fun k q h1 h2 h3 h4 hsame => ?_) hk hkn
    · have hdst : (blitBytes fill j start i m).read (regionAddr j j.cmd.dst (start + i)) =
          m.read (regionAddr j j.cmd.dst (start + i)) :=
        blitBytes_read_other fun q h1 h2 hsame =>
          absurd (hinj _ q (by omega) (by omega) h1 (by omega) hsame) (by omega)
      rw [blitValue_xor hop, blitValue_xor hop, hdst, hsrc (by simp [hop]) i hi]
    · rw [hinj k q h1 h2 h3 h4 hsame]

end

/-! ### Slices -/

section

variable {s t v : State} {j : BlitJob} {m n : Nat}

/-- Where a slice leaves the blit, and what the destination bytes it processed hold. -/
theorem blitSlice_contents (hmem : MemInv s) (hinv : BlitInv s) (hblit : s.blit = some j)
    (h : perform (.blitSlice n) s = .next t) (hxor : j.cmd.op = .xor → j.cmd.width ≤ j.pitch ∨ n = 1) {k : Nat}
    (hk : j.next ≤ k) (hkn : k < j.next + n) :
    t.mem.read (regionAddr j j.cmd.dst k) = blitValue s.cfg.blitFillValue j s.mem k := by
  obtain ⟨_, -, hlegal⟩ := hinv.jobOk j (.inl hblit)
  obtain ⟨j', hblit', -, -, hn, -, rfl⟩ := blitSlice_next h
  obtain rfl : j = j' := Option.some.inj (hblit.symm.trans hblit')
  exact blitBytes_read hmem.canonical hlegal hn hxor hk hkn

/-- Settles O48: the slice writes memory and the blit's place, and memory at its own destination bytes only. -/
theorem sliceWritesOnlyItsDestinationBytes : Obligations.SliceWritesOnlyItsDestinationBytes := by
  intro s t j n hblit h
  refine ⟨blitSlice_frame h, ?_⟩
  obtain ⟨j', hblit', -, -, -, -, rfl⟩ := blitSlice_next h
  obtain rfl : j = j' := Option.some.inj (hblit.symm.trans hblit')
  exact ⟨advance_eq_none_iff j n, fun _ => eq_of_advance_eq_some, fun a hother => blitBytes_read_other hother⟩

/-- The state after two slices of a job is that after one of their sum. -/
theorem slices_compose (s : State) (j : BlitJob) (m n : Nat) :
    ((((s.withMem (blitBytes s.cfg.blitFillValue j j.next m s.mem)).withBlit (j.advance m)).withMem
        (blitBytes s.cfg.blitFillValue { j with next := j.next + m } (j.next + m) n
          (blitBytes s.cfg.blitFillValue j j.next m s.mem))).withBlit
      (({ j with next := j.next + m } : BlitJob).advance n)) =
    (s.withMem (blitBytes s.cfg.blitFillValue j j.next (m + n) s.mem)).withBlit (j.advance (m + n)) := by
  have hplace : ({ j with next := j.next + m } : BlitJob).advance n = j.advance (m + n) := by
    simp only [BlitJob.advance, Nat.add_assoc]
  rw [hplace, blitBytes_append]
  rfl

theorem blitSlice_trans (h₁ : perform (.blitSlice m) s = .next t) (h₂ : perform (.blitSlice n) t = .next v) :
    perform (.blitSlice (m + n)) s = .next v := by
  obtain ⟨j, hblit, hvblank, hm, -, hbounds, rfl⟩ := blitSlice_next h₁
  obtain ⟨j', hblit', -, hn, hfits, -, rfl⟩ := blitSlice_next h₂
  obtain rfl := eq_of_advance_eq_some hblit'
  have hsum : j.next + (m + n) ≤ j.cmd.total := by rw [← Nat.add_assoc]; exact hfits
  rw [blitSlice_answers hblit hvblank (by omega) hsum hbounds, ← slices_compose]
  rfl

theorem blitSlice_cut (hm : 0 < m) (hn : 0 < n) (h : perform (.blitSlice (m + n)) s = .next v) :
    ∃ t, perform (.blitSlice m) s = .next t ∧ perform (.blitSlice n) t = .next v := by
  obtain ⟨j, hblit, hvblank, -, hfits, hbounds, rfl⟩ := blitSlice_next h
  have hleft : j.advance m = some { j with next := j.next + m } := if_neg (by omega)
  have hrest : j.next + m + n ≤ j.cmd.total := by rwa [Nat.add_assoc]
  refine ⟨_, blitSlice_answers hblit hvblank hm (by omega) hbounds, ?_⟩
  rw [← slices_compose]
  exact blitSlice_answers (j := { j with next := j.next + m }) hleft hvblank hn hrest hbounds

/-- Settles O47: the two ways to cut, and the contents of the one slice that the two make. -/
theorem slicesComposeWhateverTheCut : Obligations.SlicesComposeWhateverTheCut := by
  refine ⟨fun _ _ _ _ _ h₁ h₂ => blitSlice_trans h₁ h₂, fun _ _ _ _ hm hn h => blitSlice_cut hm hn h, ?_⟩
  intro s t v j m n hmem hinv hblit h₁ h₂
  have h := blitSlice_trans h₁ h₂
  obtain ⟨-, hdone, hplace, -⟩ := sliceWritesOnlyItsDestinationBytes s v j (m + n) hblit h
  rw [← Nat.add_assoc] at hdone hplace
  refine ⟨hdone, hplace, fun k hk hkn => ?_⟩
  intro S D
  have hholds (hxor : j.cmd.op = .xor → j.cmd.width ≤ j.pitch) : v.mem.read D = _ :=
    blitSlice_contents hmem hinv hblit h (fun hop => .inl (hxor hop)) hk (by omega)
  refine ⟨fun hop => ?_, fun hop => ?_, fun hop hpitch => ?_⟩
  · rw [hholds (fun hx => by simp [hop] at hx), blitValue_fill hop]
  · rw [hholds (fun hx => by simp [hop] at hx), blitValue_copy hop]
    rfl
  · rw [hholds (fun _ => hpitch), blitValue_xor hop]
    rfl

/-- In a sound state a slice of a blit in progress answers, in the vertical blanking, up to its last byte. -/
theorem blitSlice_answers_of_inv (hinv : BlitInv s) (hblit : s.blit = some j) (hvblank : s.pix.inVblank = true)
    (hn : 0 < n) (hfits : j.next + n ≤ j.cmd.total) :
    perform (.blitSlice n) s =
      .next ((s.withMem (blitBytes s.cfg.blitFillValue j j.next n s.mem)).withBlit (j.advance n)) := by
  obtain ⟨hbounds, -, -⟩ := hinv.jobOk j (.inl hblit)
  exact blitSlice_answers hblit hvblank hn hfits hbounds

/-- Settles O49: byte `c` of row `r` is byte `r * width + c` of the one slice. -/
theorem completedCopyMatchesItsSource : Obligations.CompletedCopyMatchesItsSource := by
  intro s j hmem hinv hblit hop hnew hvblank
  obtain ⟨-, hleft, -⟩ := hinv.jobOk j (.inl hblit)
  have hfits : j.next + j.cmd.width * j.cmd.height = j.cmd.total := by rw [hnew, Nat.zero_add, BlitCmd.total]
  have h := blitSlice_answers_of_inv hinv hblit hvblank (by omega) hfits.le
  refine ⟨_, h, (advance_eq_none_iff j _).mpr hfits, fun r c hr hc => ?_⟩
  have hk : r * j.cmd.width + c < j.next + j.cmd.width * j.cmd.height :=
    calc r * j.cmd.width + c
      _ < (r + 1) * j.cmd.width := by rw [Nat.succ_mul]; omega
      _ ≤ j.cmd.height * j.cmd.width := Nat.mul_le_mul_right _ hr
      _ = j.next + j.cmd.width * j.cmd.height := by rw [hnew, Nat.zero_add, Nat.mul_comm]
  have hholds := blitSlice_contents hmem hinv hblit h (fun hx => by simp [hop] at hx) (by omega) hk
  rwa [blitValue_copy hop, regionAddr_row hc, regionAddr_row hc] at hholds

/-- Settles O50: a slice of one byte needs nothing of the pitch, since it has no other byte. -/
theorem oneByteSliceAppliesTheOperation : Obligations.OneByteSliceAppliesTheOperation := by
  intro s j hmem hinv hblit hvblank S D
  obtain ⟨-, hleft, -⟩ := hinv.jobOk j (.inl hblit)
  have h := blitSlice_answers_of_inv hinv hblit hvblank Nat.one_pos hleft
  have hholds := blitSlice_contents hmem hinv hblit h (fun _ => .inr rfl) le_rfl (Nat.lt_succ_self _)
  refine ⟨_, h, fun hop => ?_, fun hop => ?_, fun hop => ?_⟩
  · exact hholds.trans (blitValue_copy hop _ _)
  · exact hholds.trans (blitValue_fill hop _ _)
  · exact hholds.trans (blitValue_xor hop _ _)

end

end Sys2Proof
end

section
/-! Proofs: the sound frame, and the slices outside it (10_state.md R45(c) to (e), 44_timing_sync.md R215,
46_dma_chain.md R251, 47_arbiter_blit.md R275). -/

namespace Sys2Proof

open Sys2Proof.Machine

/-! ### The tick: event, arm, rest -/

/-- The pixel side between the arm and the rest of a tick: as a sound frame, but the pixel unit may stand at column 0,
where the arm starts it, and the blanking indication is still that of the tick before. -/
structure ArmedOk (cfg : Config) (p : PixelSide) : Prop where
  actFits : p.act.fits cfg
  lineLt : p.line < totalLines cfg p
  colLt : p.col < totalCols cfg p
  curLength : p.curLine.length = activeWidth p
  lastLength : p.lastLine.length = activeWidth p
  pixActive : p.chain = .pix → p.line < activeLines cfg p ∧ p.col ≤ activeWidth p

theorem latch_actFits {s : State} (hfits : s.pix.act.fits s.cfg) : (latch s).pix.act.fits s.cfg := by
  rw [latch_pix]
  cases hres : resolve s.cfg s.regs.sh with
  | none => exact hfits
  | some d => exact resolve_fits hres

/-- The vblank event happens at column 0 and puts the position at column 0 (R210, R213). -/
theorem tickEvent_col_zero {s : State} (hcol : s.pix.col = 0) : (tickEvent s).pix.col = 0 := by
  rw [tickEvent_eq_ite]
  split_ifs
  · rw [vblankEvent_pix]
  · exact hcol

theorem tickEvent_actFits {s : State} (hinv : FrameInv s) : (tickEvent s).pix.act.fits s.cfg := by
  rw [tickEvent_eq_ite]
  split_ifs
  · rw [vblankEvent_pix]
    exact latch_actFits hinv.frame.actFits
  · exact hinv.frame.actFits

/-- The vblank event blanks the last valid line at the new width (R212). -/
theorem tickEvent_lastLength {s : State} (hinv : FrameInv s) :
    (tickEvent s).pix.lastLine.length = activeWidth (tickEvent s).pix := by
  rw [tickEvent_eq_ite]
  split_ifs
  · rw [vblankEvent_pix]
    exact blankLine_length _
  · exact hinv.frame.lastLength

/-- Whatever the arm shows is as long as a line: the last valid line, the fetched one or a blank one (R248, R254). -/
theorem armLine_lengths {s : State} (u : Bool) (hlast : s.pix.lastLine.length = activeWidth s.pix) :
    (armLine u s).pix.curLine.length = activeWidth s.pix ∧ (armLine u s).pix.lastLine.length = activeWidth s.pix := by
  rw [armLine_pix]
  refine ⟨?cur, ?last⟩
  case cur =>
    dsimp only
    split_ifs with hfetch hunderrun
    · exact hlast
    · exact fetchLine_length s
    · exact blankLine_length _
  case last =>
    dsimp only
    split_ifs with hvalid
    · exact fetchLine_length s
    · exact hlast

/-- The arm starts the pixel unit in active lines only (R247). -/
theorem lineActive_of_armLine_pix {s : State} {u : Bool} (h : (armLine u s).pix.chain = .pix) :
    lineActive s.cfg s.pix = true := by
  rw [armLine_pix] at h
  by_contra hidle
  rw [if_neg hidle] at h
  cases hen : s.regs.chainEn <;> simp [hen] at h

theorem tickArm_armedOk {s : State} (u : Bool) (hinv : FrameInv s) : ArmedOk s.cfg (tickArm u (tickEvent s)).pix := by
  by_cases hcol : s.pix.col = 0
  case neg =>
    rw [tickEvent_else fun ⟨h, _⟩ => hcol h, tickArm_else hcol]
    obtain ⟨hfits, hline, hcols, hcur, hlast, hpix⟩ := hinv.frame
    exact ⟨hfits, hline, hcols, hcur, hlast, fun h => have ⟨hl, _, hw, _⟩ := hpix h; ⟨hl, hw⟩⟩
  case pos =>
    have hzero := tickEvent_col_zero hcol
    obtain ⟨hcols, hline⟩ := tickEvent_position_lt hinv
    obtain ⟨hcur, hlast⟩ := armLine_lengths u (tickEvent_lastLength hinv)
    have hactive := @lineActive_of_armLine_pix (tickEvent s) u
    rw [tickArm_zero hzero]
    rw [armLine_pix] at hcur hlast hactive ⊢
    refine ⟨tickEvent_actFits hinv, hline, hcols, hcur, hlast, fun h => ?_⟩
    have hat := (lineActive_iff _ _).mp (hactive h)
    rw [tickEvent_cfg] at hat
    exact ⟨hat.1, hzero.trans_le (Nat.zero_le _)⟩

/-- The pixel unit still at work after a tick has not reached column `W`, so the advance is inside the line (R251). -/
theorem restPix_frameOk {cfg : Config} {p : PixelSide} (hwf : cfg.wf = true) (harmed : ArmedOk cfg p) :
    FrameOk cfg (restPix cfg p) := by
  obtain ⟨hfits, hline, hcol, hcur, hlast, hpix⟩ := harmed
  obtain ⟨hline', hcol'⟩ := advancePos_lt hcol hline
  refine ⟨hfits, hline', hcol', hcur, hlast, fun hchain => ?_⟩
  have hworking : p.chain = .pix := by
    by_contra hidle
    rw [restPix_chain_of_chain_ne_pix hidle] at hchain
    exact hidle hchain
  obtain ⟨hactive, hle⟩ := hpix hworking
  have hbefore : p.col < activeWidth p := by
    refine lt_of_le_of_ne hle fun hend => ?_
    rw [restPix_chain_at_width hactive hend hworking] at hchain
    cases hchain
  have hinline : p.col + 1 ≠ totalCols cfg p := by
    have := (blanking_pos hwf p.actMode).1
    rw [totalCols_eq]
    omega
  have hsameline : (restPix cfg p).line = p.line := by
    rw [restPix_line, if_neg hinline, if_neg hline.ne]
  have hnextcol : (restPix cfg p).col = p.col + 1 := by rw [restPix_col, if_neg hinline]
  refine ⟨by rw [hsameline]; exact hactive, by rw [hnextcol]; exact Nat.succ_pos _, by rw [hnextcol]; exact hbefore, ?_⟩
  exact decide_eq_false hactive.not_ge

theorem tick_frameOk {s : State} (u : Bool) (hinv : FrameInv s) : FrameOk s.cfg (tick u s).pix := by
  rw [tick_pix]
  exact restPix_frameOk hinv.cfgWf (tickArm_armedOk u hinv)

/-! ### Every event -/

theorem frameInv_of_frameOk {s t : State} (hinv : FrameInv s) (hcfg : t.cfg = s.cfg) (hframe : FrameOk s.cfg t.pix) :
    FrameInv t := by
  refine ⟨?_, ?_, ?_⟩ <;> rw [hcfg]
  exacts [hinv.cfgWf, hinv.resetOk, hframe]

theorem lateRead_frameOk {s t : State} {k : Nat} (hinv : FrameInv s) (h : perform (.lateRead k) s = .next t) :
    FrameOk s.cfg t.pix := by
  obtain ⟨_, -, -, ht⟩ := lateRead_next h
  obtain ⟨hfits, hline, hcol, -, -, hpix⟩ := hinv.frame
  rw [ht]
  exact ⟨hfits, hline, hcol, linePixels_length s _, linePixels_length s _, hpix⟩

theorem perform_keeps_frameInv {e : Event} {s t : State} (hinv : FrameInv s) (h : perform e s = .next t) :
    FrameInv t := by
  refine frameInv_of_frameOk hinv (perform_cfg h) ?_
  cases e with
  | tick u => exact tick_next h ▸ tick_frameOk u hinv
  | lateRead k => exact lateRead_frameOk hinv h
  | reset p => exact reset_next h ▸ hinv.resetOk s.pix
  | _ =>
    have hpix : t.pix = s.pix := perform_keeps .pix h (by simp)
    rw [hpix]
    exact hinv.frame

/-- Settles O58: a tick, a late read and a reset are the events that write the pixel side. -/
theorem everyStepKeepsTheFrameSound : Obligations.EveryStepKeepsTheFrameSound :=
  fun _ _ hinv h =>
    step_keeps (P := FrameInv) (fun _ _ hs => ⟨hs.cfgWf, hs.resetOk, hs.frame⟩)
      (fun _ _ _ hs he => perform_keeps_frameInv hs he) hinv h

/-- Settles O46: a slice is enabled in the vertical blanking only, where the pixel unit of a sound frame is not at
work. -/
theorem slicesNeverOverlapThePixelUnit : Obligations.SlicesNeverOverlapThePixelUnit := by
  intro s t n hinv h
  obtain ⟨_, -, hvblank, -⟩ := blitSlice_next h
  refine ⟨hvblank, fun hpix => ?_⟩
  obtain ⟨-, -, -, hactive⟩ := hinv.frame.pixActive hpix
  rw [hvblank] at hactive
  cases hactive

/-! ### The state after reset -/

theorem reset_pix_frameOk : FrameOk Config.default State.reset.pix where
  actFits := Nat.zero_le _
  lineLt := by decide
  colLt := by decide
  curLength := rfl
  lastLength := rfl
  pixActive := fun h => nomatch h

/-- The default `RESET` resolves, so what the reset leaves does not depend on the pixel side before it (R311). -/
theorem afterReset_default (p : PixelSide) : PixelSide.afterReset Config.default p = State.reset.pix := by
  have hres : resolve Config.default Config.default.reset.sh = some Descriptor.zero := by decide
  rw [PixelSide.afterReset, hres]
  rfl

/-- Settles O60, field by field. -/
theorem resetStateIsSound : Obligations.ResetStateIsSound := by
  refine ⟨⟨rfl, rfl⟩, ?bus, ⟨by decide +kernel, fun p => ?frame, reset_pix_frameOk⟩, ?blit⟩
  case bus =>
    exact ⟨by decide, fun h => (nomatch h), fun _ h => (nomatch h), rfl, fun _ => Bte.noConfusion⟩
  case frame =>
    have hreset : PixelSide.afterReset State.reset.cfg p = State.reset.pix := afterReset_default p
    rw [hreset]
    exact reset_pix_frameOk
  case blit =>
    refine ⟨fun _ => ⟨rfl, rfl, rfl, rfl⟩, fun j hj => ?_⟩
    obtain hj | hj := hj <;> cases hj

end Sys2Proof
end

section
/-! Proofs: what a tick writes and what it depends on; the latch and the line arm (43_fb_resolve.md R197 to R200,
44_timing_sync.md R209 to R221, 46_dma_chain.md R247, R256). -/

namespace Sys2Proof

open Sys2Proof.Machine

/-! ### The latch and the vblank event -/

/-- Settles O29: the event's position, register side and last valid line, from the latched pixel side. -/
theorem vblankEventPlacesThePosition : Obligations.VblankEventPlacesThePosition := by
  intro s
  rw [vblankEvent_regs, vblankEvent_pix, vblankEvent_cfg]
  refine ⟨rfl, rfl, fun hpending hpos => ?_, fun hnone => ?_, rfl, rfl⟩
  · exact if_pos (by rw [hpending, hpos]; rfl)
  · refine if_neg ?_
    obtain hnone | hpos := hnone
    · rw [hnone, Bool.false_and]
      exact Bool.false_ne_true
    · rw [hpos, Bool.and_eq_true]
      exact fun ⟨_, h⟩ => absurd h (by decide)

theorem tick_act_eq_tickEvent (u : Bool) (s : State) :
    (tick u s).pix.act = (tickEvent s).pix.act ∧ (tick u s).pix.actMode = (tickEvent s).pix.actMode := by
  obtain ⟨_, _, _, _, htick⟩ := tick_pix_eq_advancePos u s
  rw [htick]
  exact ⟨rfl, rfl⟩

/-- Of the faults a tick records only the latch's sets the configuration flag. -/
theorem tick_fCfg (u : Bool) (s : State) : (tick u s).faults.fCfg = (tickEvent s).faults.fCfg := by
  rw [tick_faults]
  obtain hsame | hraised := tickArm_faults u (tickEvent s)
  · rw [hsame]
  · rw [hraised]; rfl

/-- Settles O28: the tick of the vblank event carries through what the latch wrote, and its output begins with the
event's. -/
theorem vblankTickLatchesTheShadow : Obligations.VblankTickLatchesTheShadow := by
  intro s u hcol hline
  have hevent : tickEvent s = vblankEvent s := tickEvent_at ⟨hcol, hline⟩
  obtain ⟨hact, hmode⟩ := tick_act_eq_tickEvent u s
  have hfault := tick_fCfg u s
  rw [hevent, vblankEvent_pix, latch_pix] at hact hmode
  rw [hevent, vblankEvent_faults, latch_faults] at hfault
  have hgrows : (vblankEvent s).out <+: (tick u s).out :=
    hevent ▸ (tickArm_out_prefix u (tickEvent s)).trans (tick_out_prefix u s)
  rw [vblankEvent_out, emitVblank_out, latch_out, latch_regs] at hgrows
  refine ⟨hmode, by rw [tick_regs], by rw [tick_regs]; exact if_pos ⟨hcol, hline⟩, fun d hres => ?_, fun hres => ?_⟩
  · rw [hres] at hact hfault hgrows
    rw [Option.isSome_some, if_pos rfl, List.append_nil] at hgrows
    exact ⟨hact, hfault, hgrows⟩
  · rw [hres] at hact hfault hgrows
    rw [Option.isSome_none, if_neg Bool.false_ne_true, List.append_assoc] at hgrows
    exact ⟨hact, hfault, hgrows⟩

/-- Settles O27: outside the vblank event a tick arms and advances, a late read writes the line buffers, and no other
event but the reset writes the pixel side. -/
theorem activeDescriptorChangesOnlyAtVblank : Obligations.ActiveDescriptorChangesOnlyAtVblank := by
  intro e s t h hreset hinside
  cases e with
  | tick u =>
    have hlatched := tick_act_eq_tickEvent u s
    rw [tickEvent_else (hinside u rfl)] at hlatched
    rw [tick_next h]
    exact hlatched
  | lateRead k => rw [lateRead_frame h]; exact ⟨rfl, rfl⟩
  | reset p => exact absurd rfl (hreset p)
  | _ =>
    have hpix : t.pix = s.pix := perform_keeps .pix h (by simp)
    rw [hpix]
    exact ⟨rfl, rfl⟩

/-! ### The frame of a tick -/

theorem armLine_env (u : Bool) (s : State) : ∃ draws bytes looked,
    (armLine u s).env = { s.env with draws := draws, lineBytes := bytes, looked := looked } := by
  unfold armLine fillLine
  split_ifs <;> exact ⟨_, _, _, rfl⟩

theorem tick_env (u : Bool) (s : State) : ∃ draws bytes looked,
    (tick u s).env = { s.env with draws := draws, lineBytes := bytes, looked := looked } := by
  have hrest : (tick u s).env = (tickArm u (tickEvent s)).env := by simp [tick]
  by_cases hcol : (tickEvent s).pix.col = 0
  · obtain ⟨_, _, _, harm⟩ := armLine_env u (tickEvent s)
    rw [hrest, tickArm_zero hcol, harm, tickEvent_env]
    exact ⟨_, _, _, rfl⟩
  · rw [hrest, tickArm_else hcol, tickEvent_env]
    exact ⟨_, _, _, rfl⟩

theorem tick_faults_frame (u : Bool) (s : State) : ∃ cfgFault underrun count,
    (tick u s).faults = { s.faults with fCfg := cfgFault, fUnderrun := underrun, underrunCount := count } := by
  have hevent : ∃ cfgFault, (tickEvent s).faults = { s.faults with fCfg := cfgFault } := by
    obtain hsame | hraised := tickEvent_faults s
    · exact ⟨_, hsame⟩
    · exact ⟨_, hraised⟩
  obtain ⟨_, hevent⟩ := hevent
  rw [tick_faults]
  obtain hsame | hraised := tickArm_faults u (tickEvent s)
  · rw [hsame, hevent]; exact ⟨_, _, _, rfl⟩
  · rw [hraised, hevent]; exact ⟨_, _, _, rfl⟩

theorem state_eq_of_parts {s t : State} (hcfg : s.cfg = t.cfg) (hregs : s.regs = t.regs) (hbus : s.bus = t.bus)
    (hfaults : s.faults = t.faults) (hpix : s.pix = t.pix) (hmem : s.mem = t.mem) (hblit : s.blit = t.blit)
    (hinputs : s.inputs = t.inputs) (hout : s.out = t.out) (henv : s.env = t.env) : s = t := by
  cases s
  cases t
  simp_all

/-- Settles O33, part by part: a tick writes five parts of the state, and of three of those only the fields named. -/
theorem tickTouchesOnlyThePixelSide : Obligations.TickTouchesOnlyThePixelSide := by
  intro s u
  obtain ⟨_, _, _, hfaults⟩ := tick_faults_frame u s
  obtain ⟨_, _, _, henv⟩ := tick_env u s
  have hcfg := tick_cfg u s
  have hregs := tick_regs u s
  have hbus := tick_bus u s
  have hmem := tick_mem u s
  have hblit := tick_blit u s
  have hinputs := tick_inputs u s
  generalize tick u s = t at *
  apply state_eq_of_parts
  case hfaults => rw [hfaults]
  case henv => rw [henv]
  case hpix | hout => rfl
  all_goals assumption

/-! ### What the timing does not depend on -/

/-- The latch looks at the mode of Control and at the shadow bytes, so another Control byte of the same mode and
another chain enable make the same position and geometry (R219). -/
theorem tickEvent_of_same_mode {s : State} {c : Byte} (ce : Bool)
    (hmode : c.extractLsb' 2 3 = s.regs.ctrl.extractLsb' 2 3) :
    let s' : State := { s with regs := { s.regs with ctrl := c, chainEn := ce } }
    (tickEvent s').pix = (tickEvent s).pix ∧ (tickEvent s').faults = (tickEvent s).faults := by
  intro s'
  have hlatch : (latch s').pix = (latch s).pix := by
    rw [latch_pix, latch_pix, modeSelect, modeSelect, ← hmode]
  rw [tickEvent_eq_ite, tickEvent_eq_ite]
  by_cases hat : s.pix.col = 0 ∧ s.pix.line = activeLines s.cfg s.pix
  · rw [if_pos hat, if_pos hat, vblankEvent_pix, vblankEvent_pix, hlatch, vblankEvent_faults, vblankEvent_faults,
      latch_faults, latch_faults]
    exact ⟨rfl, rfl⟩
  · rw [if_neg hat, if_neg hat]
    exact ⟨rfl, rfl⟩

/-- Settles O34: both ticks advance from one position, and what the arms differ in the advance does not look at. -/
theorem enablesDoNotStopTheTimingGenerator : Obligations.EnablesDoNotStopTheTimingGenerator := by
  intro s u v c ce hmode s'
  obtain ⟨hpix, hfaults⟩ := tickEvent_of_same_mode ce hmode
  obtain ⟨_, _, _, _, htick⟩ := tick_pix_eq_advancePos u s
  obtain ⟨_, _, _, _, htick'⟩ := tick_pix_eq_advancePos v s'
  rw [tick_fCfg, tick_fCfg, hfaults, htick', htick, hpix]
  exact ⟨rfl, rfl, rfl, rfl, rfl, rfl, rfl⟩

/-- Settles O35: inside a line a tick has neither an event nor an arm, and its rest does not look at the register
side. -/
theorem enablesTakeHoldOnlyAtALineArm : Obligations.EnablesTakeHoldOnlyAtALineArm := by
  intro s u v r hinside
  rw [tick_pix_inside hinside, tick_pix_inside (s := { s with regs := r }) hinside]
  exact ⟨rfl, rfl, rfl, rfl⟩

/-- Settles O36: the three cases of R247, and the blank line of a chain that does not fetch. -/
theorem lineArmSetsTheChain : Obligations.LineArmSetsTheChain := by
  intro s u
  refine ⟨fun hoff => ?stopped, fun hon hline hwidth => ?pix, fun hon hblank => ?blk, fun hnofetch => ?blank⟩
  case stopped => rw [armLine_pix, hoff]; exact ⟨rfl, rfl⟩
  case pix =>
    have hactive : lineActive s.cfg s.pix = true := (lineActive_iff _ _).mpr ⟨hline, hwidth⟩
    rw [armLine_pix, hon, hactive]
    exact ⟨rfl, Bool.and_true _⟩
  case blk =>
    have hidle : lineActive s.cfg s.pix = false := Bool.eq_false_iff.mpr fun h => hblank ((lineActive_iff _ _).mp h)
    rw [armLine_pix, hon, hidle]
    exact ⟨rfl, Bool.and_false _⟩
  case blank =>
    have hidle : (s.regs.chainEn && (enableOutput s.regs.ctrl && lineActive s.cfg s.pix)) = false := by
      rwa [armLine_pix] at hnofetch
    have hnounderrun : underruns u s = false := by rw [underruns, hidle, Bool.false_and]
    rw [armLine_faults, armLine_out, hnounderrun, armLine_pix, hidle]
    exact ⟨rfl, rfl, rfl⟩

end Sys2Proof
end

section
/-! Proofs: what a tick emits, the fetched line and its windows (44_timing_sync.md R220, R221, 45_pixel_format.md R239,
46_dma_chain.md R246 to R250, 42_palette.md R185). -/

namespace Sys2Proof

open Sys2Proof.Machine

/-! ### The pixel of a position -/

section

variable {a : State}

/-- A pixel of which no channel was looked up ahead is looked up now (R185). -/
theorem lookupChannel_of_unlooked {looked : List (Nat × Channel × Byte)} {k : Nat} {ch : Channel}
    (h : ∀ q ∈ looked, ¬ (q.1 = k ∧ q.2.1 = ch)) (pal : Palette) (i : Byte) :
    lookupChannel pal looked k i ch = (paletteAt pal i).channel ch := by
  have hnone : looked.find? (fun q => q.1 == k && q.2.1 == ch) = none := by
    rw [List.find?_eq_none]
    intro q hq
    simpa using h q hq
  rw [lookupChannel, hnone]

theorem pixelHere_of_disabled (h : a.regs.ctrl.getLsbD 0 = false) : pixelHere a = .rgb888 0 0 0 :=
  if_neg (Bool.eq_false_iff.mp h)

theorem pixelHere_of_enabled {sp : StoredPixel} (h : a.regs.ctrl.getLsbD 0 = true)
    (hsp : a.pix.curLine[a.pix.col]? = some sp) :
    pixelHere a = present a.regs.pal a.env.looked a.pix.col sp := by
  rw [pixelHere, enableOutput, if_pos h, List.getD_eq_getElem?_getD, hsp, Option.getD_some]

/-- What is emitted at a position: one pixel where it is active, of the stored pixel of its column, looked up now if
no channel of it was looked up ahead; nothing elsewhere (R220, R239). -/
theorem emitted_at_position (hlen : a.pix.curLine.length = activeWidth a.pix) : ∃ px : List OutEvent,
    px = (if a.pix.line < activeLines a.cfg a.pix ∧ a.pix.col < activeWidth a.pix then [.pixel (pixelHere a)]
      else []) ∧
    (¬ (a.pix.line < activeLines a.cfg a.pix ∧ a.pix.col < a.pix.act.width.toNat) → px = []) ∧
    (a.pix.line < activeLines a.cfg a.pix → a.pix.col < a.pix.act.width.toNat →
      (a.regs.ctrl.getLsbD 0 = false → px = [.pixel (.rgb888 0 0 0)]) ∧
      (a.regs.ctrl.getLsbD 0 = true → (∀ q ∈ a.env.looked, q.1 ≠ a.pix.col) →
        ∃ sp, a.pix.curLine[a.pix.col]? = some sp ∧
          px = [.pixel (match sp with
            | .direct v => v
            | .index i =>
              .rgb888 (a.regs.pal.get i.toFin).r (a.regs.pal.get i.toFin).g (a.regs.pal.get i.toFin).b)])) := by
  refine ⟨_, rfl, fun hblank => if_neg hblank, fun hline hcol => ?_⟩
  have hactive : a.pix.line < activeLines a.cfg a.pix ∧ a.pix.col < activeWidth a.pix := ⟨hline, hcol⟩
  rw [if_pos hactive]
  refine ⟨fun hoff => by rw [pixelHere_of_disabled hoff], fun hon hnow => ?_⟩
  have hsp : a.pix.curLine[a.pix.col]? = some a.pix.curLine[a.pix.col] :=
    List.getElem?_eq_getElem (hlen ▸ hcol)
  refine ⟨_, hsp, ?_⟩
  rw [pixelHere_of_enabled hon hsp]
  cases a.pix.curLine[a.pix.col] with
  | direct v => rfl
  | index i =>
    have hchannel (ch : Channel) := lookupChannel_of_unlooked (ch := ch) (fun q hq h => hnow q hq h.1) a.regs.pal i
    rw [present, hchannel, hchannel, hchannel]
    rfl

end

/-! ### The output of a tick -/

theorem tickEvent_syncs (s : State) :
    (tickEvent s).pix.vsyncOut = s.pix.vsyncOut ∧ (tickEvent s).pix.hsyncOut = s.pix.hsyncOut := by
  rw [tickEvent_eq_ite]
  split_ifs
  · rw [vblankEvent_pix, latch_pix]
    exact ⟨rfl, rfl⟩
  · exact ⟨rfl, rfl⟩

theorem tickArm_syncs (u : Bool) (s : State) :
    (tickArm u s).pix.vsyncOut = s.pix.vsyncOut ∧ (tickArm u s).pix.hsyncOut = s.pix.hsyncOut := by
  obtain ⟨_, _, _, _, harm⟩ := tickArm_pix u s
  rw [harm]
  exact ⟨rfl, rfl⟩

/-- After its arm a tick emits the edges of the outputs it leaves against those before it, vertical first, and then
what its position shows (R220, R221). -/
theorem tick_out_after_arm {s a : State} {u : Bool} (ha : tickArm u (tickEvent s) = a) :
    (tick u s).out =
      a.out ++
      (if (tick u s).pix.vsyncOut = s.pix.vsyncOut then [] else [.vsyncEdge (tick u s).pix.vsyncOut]) ++
      (if (tick u s).pix.hsyncOut = s.pix.hsyncOut then [] else [.hsyncEdge (tick u s).pix.hsyncOut]) ++
      (if a.pix.line < activeLines a.cfg a.pix ∧ a.pix.col < activeWidth a.pix then [.pixel (pixelHere a)] else []) := by
  subst ha
  obtain ⟨hvs, hhs⟩ := tickEvent_syncs s
  obtain ⟨hvs', hhs'⟩ := tickArm_syncs u (tickEvent s)
  rw [tick_out, emitPixel_rest_out, tick_pix, restPix_vsyncOut, restPix_hsyncOut, hvs', hvs, hhs', hhs, tickArm_cfg,
    tickEvent_cfg]

/-- At column 0 the arm follows the event, if this is its line (R209). -/
theorem tickArm_tickEvent_of_col_zero {s : State} (u : Bool) (hcol : s.pix.col = 0) :
    tickArm u (tickEvent s) = armLine u (if s.pix.line = activeLines s.cfg s.pix then vblankEvent s else s) := by
  rw [tickArm_zero (tickEvent_col_zero hcol), tickEvent_eq_ite]
  simp only [hcol, true_and]

theorem tickArm_tickEvent_regs (u : Bool) (s : State) :
    (tickArm u (tickEvent s)).regs.ctrl = s.regs.ctrl ∧ (tickArm u (tickEvent s)).regs.pal = s.regs.pal := by
  rw [tickArm_regs, tickEvent_eq_ite]
  split_ifs
  · rw [vblankEvent_regs]
    exact ⟨rfl, rfl⟩
  · exact ⟨rfl, rfl⟩

/-- Settles O32: outside column 0 the state after the arm is the state before the tick; at column 0 it is that of the
line arm, with nothing looked up ahead. -/
theorem tickEmitsEdgesAndPixel : Obligations.TickEmitsEdgesAndPixel := by
  intro s u hinv
  refine ⟨fun hinside => ?_, fun hcol => ?_⟩
  · have harm : tickArm u (tickEvent s) = s := by
      rw [tickEvent_else fun ⟨h, _⟩ => hinside h, tickArm_else hinside]
    obtain ⟨_, rfl, hshown⟩ := emitted_at_position hinv.frame.curLength
    exact ⟨_, tick_out_after_arm harm, hshown⟩
  · intro a
    have harm : tickArm u (tickEvent s) = a := tickArm_tickEvent_of_col_zero u hcol
    have hlen : a.pix.curLine.length = activeWidth a.pix := harm ▸ (tickArm_armedOk u hinv).curLength
    have hzero : a.pix.col = 0 := by
      obtain ⟨_, _, _, _, hpix⟩ := tickArm_pix u (tickEvent s)
      rw [← harm, hpix]
      exact tickEvent_col_zero hcol
    have hfresh : a.env.looked = [] := armLine_looked u _
    obtain ⟨hctrl, hpal⟩ : a.regs.ctrl = s.regs.ctrl ∧ a.regs.pal = s.regs.pal := harm ▸ tickArm_tickEvent_regs u s
    obtain ⟨_, rfl, hblank, hshown⟩ := emitted_at_position hlen
    rw [hctrl, hpal, hfresh, hzero] at hshown
    rw [hzero] at hblank
    refine ⟨_, tick_out_after_arm harm, ?_, ?_⟩
    · rwa [hzero]
    · rw [hzero]
      intro hline hwidth
      obtain ⟨hoff, hon⟩ := hshown hline hwidth
      exact ⟨hoff, fun henabled => hon henabled (List.forall_mem_nil _)⟩

/-! ### The fetched line -/

section

variable {s : State}

theorem fetchBytes_length (s : State) :
    (fetchBytes s).length = (s.pix.act.width.toNat * s.pix.act.fmt.bits + 7) / 8 := by
  rw [fetchBytes, scanRead, List.length_map, List.length_range]
  rfl

theorem scanByte_of_inside {cap addr : Nat} (m : Memory) (draw k : Nat) (h : addr < cap) :
    scanByte cap m draw k addr = m.read addr := if_pos h

theorem fetchBytes_getElem? {k : Nat} (hk : k < (fetchBytes s).length)
    (hinside : (scanlineOf s.cfg s.pix).src + k < s.cfg.memCapacity) :
    (fetchBytes s)[k]? = some (s.mem.read ((scanlineOf s.cfg s.pix).src + k)) := by
  have hrange : k < (scanlineOf s.cfg s.pix).len := by
    rwa [fetchBytes, scanRead, List.length_map, List.length_range] at hk
  rw [fetchBytes, scanRead, List.getElem?_map, List.getElem?_range hrange, Option.map_some,
    scanByte_of_inside _ _ _ hinside]

/-- The tick that fetches an active line leaves it in both line buffers (R248, R254). -/
theorem tick_fetched_line (hcol : s.pix.col = 0) (hline : s.pix.line < activeLines s.cfg s.pix)
    (hfetch : (s.regs.chainEn && (enableOutput s.regs.ctrl && lineActive s.cfg s.pix)) = true) :
    (tick false s).pix.curLine = fetchLine s ∧ (tick false s).pix.lastLine = fetchLine s := by
  rw [tick_pix, tickArm_tickEvent_of_active false hcol hline, restPix_curLine, restPix_lastLine, armLine_pix, hfetch]
  exact ⟨rfl, rfl⟩

end

/-- Settles O38: the bytes are those the arm fetched, and the line is what it unpacks them to. -/
theorem fetchedLineShowsMemory : Obligations.FetchedLineShowsMemory := by
  intro s hcol hline hwidth hchain hout
  have hfetch := fetching_of_enables hchain hout ((lineActive_iff _ _).mpr ⟨hline, hwidth⟩)
  obtain ⟨hcur, hlast⟩ := tick_fetched_line hcol hline hfetch
  have hbyte {k : Nat} (hk : k < (fetchBytes s).length) := fetchBytes_getElem? hk
  intro a
  refine ⟨fetchBytes s, fetchBytes_length s, fun k hk hin => hbyte hk hin, hcur, hlast.trans hcur.symm,
    fun hfmt k hk hin => ?_⟩
  have hlen : k < (fetchBytes s).length := by
    rw [fetchBytes_length, hfmt, PixelFormat.bits]
    omega
  rw [hcur, fetchLine, linePixels, unpack_getElem? (by exact hk), hfmt, pixelOf_bpp8 (hbyte hlen hin)]
  rfl

/-! ### The windows -/

theorem perform_lateRead {s : State} {bytes : List Byte} {k : Nat} (hbytes : s.env.lineBytes = some bytes)
    (hopen : readOpen s bytes k = true) :
    perform (.lateRead k) s = .next
      ((s.withPix
          { s.pix with
            curLine := linePixels s (bytes.set k (lateByte s k))
            lastLine := linePixels s (bytes.set k (lateByte s k)) }).withEnv
        { s.env with
          draws := s.env.draws + 1
          lineBytes := some (bytes.set k (lateByte s k))
          looked := s.env.looked.filter fun q => !indexFrom s.pix.act.fmt q.1 k }) := by
  simp only [perform, lateRead, hbytes, hopen, if_true]

/-- Settles O39: the window of the byte is the guard of the late read. -/
theorem lateReadTakesTheByteAsItStands : Obligations.LateReadTakesTheByteAsItStands := by
  intro s bytes k hbytes
  have hopen : readOpen s bytes k = true ↔
      k < bytes.length ∧ 0 < s.pix.col ∧ s.pix.col ≤ firstPixel s.pix.act.fmt k := by
    simp only [readOpen, Bool.and_eq_true, decide_eq_true_eq, and_assoc]
  refine ⟨fun hk hcol hfirst => ?inside, fun houtside => ?outside⟩
  case inside =>
    intro a
    exact ⟨lateByte s k, _, fun ha => scanByte_of_inside _ _ _ ha,
      perform_lateRead hbytes (hopen.mpr ⟨hk, hcol, hfirst⟩)⟩
  case outside =>
    rw [perform, lateRead, hbytes]
    exact if_neg (hopen.not.mpr houtside)

theorem perform_earlyLookup {s : State} {k : Nat} {ch : Channel} {i : Byte} (hcol : 0 < s.pix.col)
    (hk : s.pix.col ≤ k) (hindex : s.pix.curLine[k]? = some (.index i)) :
    perform (.earlyLookup k ch) s = .next
      (s.withEnv { s.env with looked := (k, ch, (paletteAt s.regs.pal i).channel ch) :: s.env.looked }) := by
  simp only [perform, earlyLookup, hcol, hk, hindex, decide_true, Bool.and_self, if_true]

/-- Inside a line the last thing a tick emits at an active position is its pixel (R220). -/
theorem tick_out_getLast? {s : State} (u : Bool) (hinside : s.pix.col ≠ 0)
    (hline : s.pix.line < activeLines s.cfg s.pix) (hcol : s.pix.col < activeWidth s.pix) :
    (tick u s).out.getLast? = some (.pixel (pixelHere s)) := by
  have harm : tickArm u (tickEvent s) = s := by
    rw [tickEvent_else fun ⟨h, _⟩ => hinside h, tickArm_else hinside]
  have hactive : s.pix.line < activeLines s.cfg s.pix ∧ s.pix.col < activeWidth s.pix := ⟨hline, hcol⟩
  rw [tick_out_after_arm harm, if_pos hactive, List.getLast?_concat]

theorem lookupChannel_of_looked (pal : Palette) (looked : List (Nat × Channel × Byte)) (k : Nat) (ch : Channel)
    (b i : Byte) : lookupChannel pal ((k, ch, b) :: looked) k i ch = b := by
  rw [lookupChannel, List.find?_cons_of_pos (by simp)]

/-- Settles O40: the pixel of the column is built channel by channel, from the record where it has one. -/
theorem earlyLookupFixesOneChannelOfOnePixel : Obligations.EarlyLookupFixesOneChannelOfOnePixel := by
  intro s k ch i hcol hk hindex
  refine ⟨_, perform_earlyLookup hcol hk hindex, rfl, ?_⟩
  intro t u j i' hlooked hj htcol hpixel hline hwidth hon
  refine ⟨lookupChannel t.regs.pal t.env.looked j i', ?_, fun hjk => ?_, fun hnone ch' hother => ?_⟩
  · subst htcol
    rw [tick_out_getLast? u hj.ne' hline hwidth, pixelHere_of_enabled hon hpixel]
    rfl
  · subst hjk
    rw [hlooked]
    exact lookupChannel_of_looked _ _ _ _ _ _
  · rw [hlooked]
    refine lookupChannel_of_unlooked (fun q hq hmatch => hother ?_) _ _
    have hq : q = (k, ch, (paletteAt s.regs.pal i).channel ch) := by
      rw [State.withEnv_env, hnone] at hq
      exact List.mem_singleton.mp hq
    subst hq
    obtain ⟨hkj, hch⟩ := hmatch
    exact ⟨hkj.symm, hch.symm⟩

end Sys2Proof
end

section
/-! Proofs: the reset event (70_reset_and_hazards.md R310 to R312, 10_state.md R47). -/

namespace Sys2Proof

open Sys2Proof.Machine

theorem perform_reset_of_resolves {s : State} {d : Descriptor} (pal : Palette)
    (hres : resolve s.cfg s.cfg.reset.sh = some d) :
    perform (.reset pal) s = .next
      { s with
        regs := RegSide.afterReset s.cfg.reset pal
        bus := { bte := s.cfg.reset.bte, dataOut := s.cfg.reset.dataOut }
        faults := s.cfg.reset.faults
        pix := { PixelSide.afterReset s.cfg s.pix with act := d }
        blit := s.cfg.reset.blit
        env := { s.env with lineBytes := none, looked := [] } } := by
  have hact : (PixelSide.afterReset s.cfg s.pix).act = d := by
    rw [PixelSide.afterReset, hres]
    rfl
  rw [← hact]
  rfl

/-- The zero shadow bytes resolve under all parameters: the empty frame needs no memory (R311). -/
theorem resolve_zero (cfg : Config) : resolve cfg Shadow.zero = some Descriptor.zero := by
  rw [resolve_of_format cfg (fmt := .bpp1) rfl]
  exact if_neg (Nat.not_lt_zero _)

/-- Settles O52: with shadow bytes that resolve, every part takes its field; the default ones resolve to the empty
descriptor. -/
theorem resetEventGivesTheResetTable : Obligations.ResetEventGivesTheResetTable := by
  refine ⟨fun s pal d hres => perform_reset_of_resolves pal hres, fun s pal hdefault => ?_⟩
  have hres : resolve s.cfg s.cfg.reset.sh = some Descriptor.zero := by
    rw [hdefault]
    exact resolve_zero s.cfg
  rw [perform_reset_of_resolves pal hres, PixelSide.afterReset, hdefault]
  rfl

end Sys2Proof
end

section
/-! Proofs: runs of palette writes (42_palette.md R180 to R184, 10_state.md R28, R29). -/

namespace Sys2Proof

open Sys2Proof.Machine

/-! ### The register side after a run of data writes -/

/-- What a Palette Data write does to the register side (R181). -/
def writePaletteData (r : RegSide) (d : Byte) : RegSide :=
  { r with
    pal := paletteSet r.pal r.palIndex ((paletteAt r.pal r.palIndex).setChannel r.palChannel d)
    palIndex := if r.palChannel = .blue then r.palIndex + 1 else r.palIndex
    palChannel := r.palChannel.next }

theorem applyPaletteData_regs (d : Byte) (s : State) : (applyPaletteData d s).regs = writePaletteData s.regs d := rfl

/-- A run of data writes answers, and its register side is the writes' one after the other. -/
theorem execAll_wrPald_run (ds : List Byte) (s : State) : ∃ t,
    execAll (ds.map .wrPald) s = .next t ∧ t.regs = ds.foldl writePaletteData s.regs := by
  induction ds generalizing s with
  | nil => exact ⟨s, rfl, rfl⟩
  | cons d ds ih =>
    obtain ⟨t, hrun, hregs⟩ := ih (finishWrite (applyPaletteData d s))
    refine ⟨t, ?_, ?_⟩
    · rw [List.map_cons, execAll_wrPald, hrun]
    · rw [hregs, finishWrite_regs, applyPaletteData_regs, List.foldl_cons]

/-- The same after an index write, which puts the cursor at channel R of the index (R180). -/
theorem execAll_wrPala_run (i : Byte) (ds : List Byte) (s : State) : ∃ t,
    execAll (.wrPala i :: ds.map .wrPald) s = .next t ∧
      t.regs = ds.foldl writePaletteData { s.regs with palIndex := i, palChannel := .red } := by
  rw [execAll_wrPala]
  exact execAll_wrPald_run ds (finishWrite (applyPaletteAddress i s))

/-! ### The cursor counts -/

/-- The number of a channel, R to B (R28). -/
def channelNumber : Channel → Nat
  | .red => 0
  | .green => 1
  | .blue => 2

theorem channelNumber_eq (c : Channel) (n : Nat) (h : channelNumber c = n) :
    (c = .red ↔ n = 0) ∧ (c = .green ↔ n = 1) ∧ (c = .blue ↔ n = 2) := by
  subst h
  cases c <;> decide

/-- One write counts the cursor on by one channel, and by one entry past blue (R181, R183). -/
theorem writePaletteData_cursor (r : RegSide) (d : Byte) :
    channelNumber (writePaletteData r d).palChannel = (channelNumber r.palChannel + 1) % 3 ∧
      (writePaletteData r d).palIndex.toNat = (r.palIndex.toNat + (channelNumber r.palChannel + 1) / 3) % 256 := by
  have hindex : r.palIndex.toNat % 256 = r.palIndex.toNat := Nat.mod_eq_of_lt r.palIndex.isLt
  cases hc : r.palChannel with
  | red | green => simp [writePaletteData, hc, channelNumber, Channel.next, hindex]
  | blue => simp [writePaletteData, hc, channelNumber, Channel.next, BitVec.toNat_add]

/-- The cursor after a run of writes: the channel counts modulo 3, the index by completed triplets modulo 256 (R29). -/
theorem paletteCursor_after_run (ds : List Byte) (r : RegSide) :
    channelNumber (ds.foldl writePaletteData r).palChannel = (channelNumber r.palChannel + ds.length) % 3 ∧
      (ds.foldl writePaletteData r).palIndex.toNat =
        (r.palIndex.toNat + (channelNumber r.palChannel + ds.length) / 3) % 256 := by
  induction ds generalizing r with
  | nil =>
    have hindex : r.palIndex.toNat % 256 = r.palIndex.toNat := Nat.mod_eq_of_lt r.palIndex.isLt
    cases hc : r.palChannel <;> simp [hc, channelNumber, hindex]
  | cons d ds ih =>
    obtain ⟨hchannel, hindex⟩ := ih (writePaletteData r d)
    obtain ⟨hchannel₁, hindex₁⟩ := writePaletteData_cursor r d
    rw [List.foldl_cons, List.length_cons, hchannel, hindex, hchannel₁, hindex₁]
    omega

theorem paletteCursor_from_red {r : RegSide} (hred : r.palChannel = .red) (ds : List Byte) :
    (ds.foldl writePaletteData r).palIndex = BitVec.ofNat 8 ((r.palIndex.toNat + ds.length / 3) % 256) ∧
      ((ds.foldl writePaletteData r).palChannel = .red ↔ ds.length % 3 = 0) ∧
      ((ds.foldl writePaletteData r).palChannel = .green ↔ ds.length % 3 = 1) ∧
      ((ds.foldl writePaletteData r).palChannel = .blue ↔ ds.length % 3 = 2) := by
  obtain ⟨hchannel, hindex⟩ := paletteCursor_after_run ds r
  rw [hred, channelNumber, Nat.zero_add] at hchannel hindex
  refine ⟨?_, channelNumber_eq _ _ hchannel⟩
  rw [← hindex, BitVec.ofNat_toNat, BitVec.setWidth_eq]

/-- Settles O24: the index write puts the cursor at channel R, and from there it counts the writes. -/
theorem paletteCursorCountsTheDataWrites : Obligations.PaletteCursorCountsTheDataWrites := by
  refine fun s i ds => ⟨?_, fun hred => ?_⟩
  · obtain ⟨t, hrun, hregs⟩ := execAll_wrPala_run i ds s
    refine ⟨t, hrun, ?_⟩
    rw [hregs]
    exact paletteCursor_from_red rfl ds
  · obtain ⟨t, hrun, hregs⟩ := execAll_wrPald_run ds s
    refine ⟨t, hrun, ?_⟩
    rw [hregs]
    exact paletteCursor_from_red hred ds

/-! ### Whole triplets -/

/-- The data bytes of whole triplets, in the order of their writes (R184). -/
def tripletBytes (es : List Rgb) : List Byte := es.flatMap fun e => [e.r, e.g, e.b]

theorem tripletWrites_eq_map (es : List Rgb) : tripletWrites es = (tripletBytes es).map .wrPald := by
  rw [tripletBytes, List.map_flatMap]
  rfl

theorem paletteAt_paletteSet_same (p : Palette) (i : Byte) (e : Rgb) : paletteAt (paletteSet p i e) i = e := by
  rw [paletteAt, paletteSet_get, if_pos rfl]

theorem paletteSet_paletteSet (p : Palette) (i : Byte) (e e' : Rgb) :
    paletteSet (paletteSet p i e) i e' = paletteSet p i e' := Vector.set_set _ i.isLt

/-- One triplet from channel R fills the entry at the index and advances the cursor to the next (R184). -/
theorem writePaletteData_triplet {r : RegSide} (hred : r.palChannel = .red) (e : Rgb) :
    [e.r, e.g, e.b].foldl writePaletteData r =
      { r with pal := paletteSet r.pal r.palIndex e, palIndex := r.palIndex + 1, palChannel := .red } := by
  simp only [List.foldl_cons, List.foldl_nil, writePaletteData, hred, Channel.next, Rgb.setChannel,
    paletteAt_paletteSet_same, paletteSet_paletteSet, reduceCtorEq, if_true, if_false]

theorem tripletBytes_length (es : List Rgb) : (tripletBytes es).length = 3 * es.length := by
  induction es with
  | nil => rfl
  | cons e es ih =>
    rw [tripletBytes, List.flatMap_cons, List.length_append, ← tripletBytes, ih, List.length_cons]
    simp only [List.length_cons, List.length_nil]
    omega

theorem index_add_succ (i : Byte) (k : Nat) : i + BitVec.ofNat 8 (k + 1) = i + 1 + BitVec.ofNat 8 k := by
  rw [Nat.add_comm k 1, BitVec.ofNat_add, BitVec.add_assoc]
  rfl

/-- Fewer than 256 entries after an index are not the entry at the index. -/
theorem index_ne_later {k : Nat} (hk : k < 255) (i : Byte) : i ≠ i + 1 + BitVec.ofNat 8 k := by
  intro h
  have htoNat := congrArg BitVec.toNat h
  have hlt := i.isLt
  have hone : (1 : Byte).toNat = 1 := rfl
  simp only [BitVec.toNat_add, BitVec.toNat_ofNat, hone] at htoNat
  omega

/-- Up to 256 triplets from channel R fill the entries from the index on, each with its triplet, and leave the others
alone (R184). -/
theorem triplets_fill (es : List Rgb) {r : RegSide} (hred : r.palChannel = .red) (hlen : es.length ≤ 256) :
    let r' := (tripletBytes es).foldl writePaletteData r
    (∀ k, k < es.length → es[k]? = some (r'.pal.get (r.palIndex + BitVec.ofNat 8 k).toFin)) ∧
      ∀ j : Byte, (∀ k, k < es.length → j ≠ r.palIndex + BitVec.ofNat 8 k) → r'.pal.get j.toFin = r.pal.get j.toFin := by
  induction es generalizing r with
  | nil => exact ⟨fun k hk => absurd hk (Nat.not_lt_zero k), fun _ _ => rfl⟩
  | cons e es ih =>
    rw [List.length_cons] at hlen
    have hfirst : (tripletBytes (e :: es)).foldl writePaletteData r =
        (tripletBytes es).foldl writePaletteData
          { r with pal := paletteSet r.pal r.palIndex e, palIndex := r.palIndex + 1, palChannel := .red } := by
      rw [tripletBytes, List.flatMap_cons, List.foldl_append, writePaletteData_triplet hred]
      rfl
    obtain ⟨hfilled, hothers⟩ := ih
      (r := { r with pal := paletteSet r.pal r.palIndex e, palIndex := r.palIndex + 1, palChannel := .red })
      rfl (by omega)
    rw [hfirst]
    refine ⟨fun k hk => ?_, fun j hj => ?_⟩
    · cases k with
      | zero =>
        have hentry := hothers r.palIndex fun k hk => index_ne_later (by omega) r.palIndex
        rw [paletteSet_get, if_pos rfl] at hentry
        rw [List.getElem?_cons_zero, BitVec.add_zero, hentry]
      | succ k =>
        rw [List.length_cons] at hk
        rw [List.getElem?_cons_succ, index_add_succ]
        exact hfilled k (by omega)
    · have hne : j ≠ r.palIndex := by
        have h0 := hj 0 (Nat.succ_pos _)
        rwa [BitVec.add_zero] at h0
      rw [hothers j fun k hk => index_add_succ r.palIndex k ▸ hj (k + 1) (by rw [List.length_cons]; omega),
        paletteSet_get, if_neg hne]

/-- Settles O23: one triplet from the index written; 256 of them fill every entry once, and the index wraps to where
it was. -/
theorem tripletAndWrapLaws : Obligations.TripletAndWrapLaws := by
  refine ⟨fun s i r g b => ?triplet, fun s es hlen hred => ?wrap⟩
  case triplet =>
    obtain ⟨t, hrun, hregs⟩ := execAll_wrPala_run i [r, g, b] s
    rw [writePaletteData_triplet (e := { r := r, g := g, b := b }) rfl] at hregs
    refine ⟨t, hrun, ?_, fun j hj => ?_, ?_, by rw [hregs]⟩
    · rw [hregs, paletteSet_get, if_pos rfl]
    · rw [hregs, paletteSet_get, if_neg hj]
    · rw [hregs, index_succ]
  case wrap =>
    obtain ⟨t, hrun, hregs⟩ := execAll_wrPald_run (tripletBytes es) s
    obtain ⟨hindex, hchannel, -, -⟩ := paletteCursor_from_red hred (tripletBytes es)
    obtain ⟨hfilled, -⟩ := triplets_fill es hred hlen.le
    have hbytes : (tripletBytes es).length = 3 * 256 := by rw [tripletBytes_length, hlen]
    rw [hbytes] at hindex hchannel
    refine ⟨t, tripletWrites_eq_map es ▸ hrun, ?_, ?_, fun k hk => ?_⟩
    · have hwrap : (s.regs.palIndex.toNat + 3 * 256 / 3) % 256 = s.regs.palIndex.toNat := by
        have hlt := s.regs.palIndex.isLt
        omega
      rw [hregs, hindex, hwrap, BitVec.ofNat_toNat, BitVec.setWidth_eq]
    · rw [hregs]
      exact hchannel.mpr (by decide)
    · rw [hregs]
      exact hfilled k (hlen.symm ▸ hk)

end Sys2Proof
end
